-- ==== Sys2Proof/Word.lean ====
section
/-! DEFINITION. The word types of the machine: what the spec treats as bits (R5, R8 of 00_scope.md). -/

namespace Sys2Proof

/-- A memory word, an accumulator, the switch register: 16 bits (R5). -/
abbrev Word := BitVec 16

/-- One of the two halves of a word as memory holds it, and a byte of a host stream. -/
abbrev Byte := BitVec 8

/-- A word address, and the program counter: 15 bits (R5, R21). -/
abbrev Addr := BitVec 15

/-- A device code, 0..63 (R5, R78). -/
abbrev DevCode := BitVec 6

/-- A bitset indexed by device code (R30, R31). -/
abbrev DevSet := BitVec 64

/-- The 17-bit ALU value: bit 16 the carry position, bits 15:0 the word (R7, R103). -/
abbrev Alu := BitVec 17

end Sys2Proof
end

