-- ==== Sys2Proof/Syntax.lean ====
section
/-! DEFINITION. The instructions: the fields of the four formats (R72 to R75 of 30_encoding.md) and `Instr`,
one constructor per row of opcode_table.json. -/

namespace Sys2Proof

/-- An accumulator index (R20, R78). -/
inductive Ac where
  | ac0
  | ac1
  | ac2
  | ac3
deriving DecidableEq, Repr

/-- The shift field SH (R72, R104): none, L, R, S. -/
inductive Shift where
  | none
  | left
  | right
  | swap
deriving DecidableEq, Repr

/-- The carry field CY (R72, R102): previous C, Z, O, complement of C. -/
inductive CarrySel where
  | prev
  | zero
  | one
  | comp
deriving DecidableEq, Repr

/-- The skip field SKIP of an ALC word (R72, R107). -/
inductive Skip where
  | never
  | skp
  | szc
  | snc
  | szr
  | snr
  | sez
  | sbn
deriving DecidableEq, Repr

/-- The addressing mode field MODE (R73, R141). -/
inductive Mode where
  | pageZero
  | pcRel
  | ac2Rel
  | ac3Rel
deriving DecidableEq, Repr

/-- The control field F of an I/O word with OP 0..6 (R75, R176): none, S, C, P. -/
inductive Ctl where
  | none
  | start
  | clear
  | pulse
deriving DecidableEq, Repr

/-- The test that F selects when OP is SKP (R75, R185). -/
inductive IoTest where
  | bn
  | bz
  | dn
  | dz
deriving DecidableEq, Repr

/-- The OP field of an I/O word but for SKP (R75). -/
inductive IoOp where
  | nio
  | dia
  | doa
  | dib
  | dob
  | dic
  | doc
deriving DecidableEq, Repr

/-- The option fields of an ALC word (R72), all independent (R121). -/
structure AlcFields where
  acs : Ac
  acd : Ac
  sh : Shift
  cy : CarrySel
  nl : Bool
  sk : Skip
deriving DecidableEq, Repr

/-- The address fields of a memory-reference word (R73): the indirect bit, the mode, the displacement. -/
structure EaFields where
  ind : Bool
  mode : Mode
  disp : BitVec 8
deriving DecidableEq, Repr

/-- One constructor per row of opcode_table.json. Fields that an instruction ignores (the AC field of SKP,
of HALT ...) are kept, so that no bit of a word is dropped. -/
inductive Instr where
  -- R80: arithmetic/logical
  | com (a : AlcFields)
  | neg (a : AlcFields)
  | mov (a : AlcFields)
  | inc (a : AlcFields)
  | adc (a : AlcFields)
  | sub (a : AlcFields)
  | add (a : AlcFields)
  | and (a : AlcFields)
  -- R81: memory reference
  | jmp (m : EaFields)
  | jsr (m : EaFields)
  | isz (m : EaFields)
  | dsz (m : EaFields)
  | lda (ac : Ac) (m : EaFields)
  | sta (ac : Ac) (m : EaFields)
  -- R84: multiply/divide unit, code 0o01
  | mul
  | div
  /-- `DOCS ac,MDV` (`pulse` false) and `DOCP ac,MDV` (`pulse` true) with `ac` not 2 (R234). -/
  | docMdv (ac : Ac) (pulse : Bool)
  | skpMdv (ac : Ac) (t : IoTest)
  | otherMdv (ac : Ac) (op : IoOp) (f : Ctl)
  -- R83: CPU pseudo-device, code 0o77
  | nioCpu (ac : Ac) (f : Ctl)
  | reads (ac : Ac) (f : Ctl)
  | doaCpu (ac : Ac) (f : Ctl)
  | inta (ac : Ac) (f : Ctl)
  | msko (ac : Ac) (f : Ctl)
  | iorst (ac : Ac) (f : Ctl)
  | halt (ac : Ac) (f : Ctl)
  | skpbnCpu (ac : Ac)
  | skpbzCpu (ac : Ac)
  | skpdnCpu (ac : Ac)
  | skpdzCpu (ac : Ac)
  -- R82: controllers and absent devices
  | nio (ac : Ac) (f : Ctl) (dev : DevCode)
  | dia (ac : Ac) (f : Ctl) (dev : DevCode)
  | doa (ac : Ac) (f : Ctl) (dev : DevCode)
  | dib (ac : Ac) (f : Ctl) (dev : DevCode)
  | dob (ac : Ac) (f : Ctl) (dev : DevCode)
  | dic (ac : Ac) (f : Ctl) (dev : DevCode)
  | doc (ac : Ac) (f : Ctl) (dev : DevCode)
  | skp (ac : Ac) (t : IoTest) (dev : DevCode)
deriving DecidableEq, Repr

end Sys2Proof
end

