-- ==== Sys2Proof/WellFormed.lean ====
section
/-! DEFINITION. Which terms of `Instr` are instructions of the machine: R79 (a generic I/O row names no
pseudo-device), R84 and R234, R236 (which words each MDV row has). The parameter is MDV_PRESENT. -/

namespace Sys2Proof

/-- A device code that the generic I/O rows apply to: neither 0o77 nor, when MDV_PRESENT, 0o01 (R79). -/
def genericDev (mdv : Bool) (d : DevCode) : Bool :=
  d != 0o77#6 && !(mdv && d == 0o01#6)

/-- The OP and F of a row `other MDV` (R236): all but DOC with S or P, which R232 to R234 take. -/
def otherMdvForm (op : IoOp) (f : Ctl) : Bool :=
  !(op == .doc && (f == .start || f == .pulse))

/-- The terms that some word decodes to, with MDV_PRESENT = `mdv`. Every term of the ALC, memory-reference and
CPU-device rows is one (R121, R81, R83). -/
def Instr.wf (mdv : Bool) : Instr → Bool
  | .com _ => true
  | .neg _ => true
  | .mov _ => true
  | .inc _ => true
  | .adc _ => true
  | .sub _ => true
  | .add _ => true
  | .and _ => true
  | .jmp _ => true
  | .jsr _ => true
  | .isz _ => true
  | .dsz _ => true
  | .lda _ _ => true
  | .sta _ _ => true
  | .mul => mdv
  | .div => mdv
  | .docMdv ac _ => mdv && ac != .ac2
  | .skpMdv _ _ => mdv
  | .otherMdv _ op f => mdv && otherMdvForm op f
  | .nioCpu _ _ => true
  | .reads _ _ => true
  | .doaCpu _ _ => true
  | .inta _ _ => true
  | .msko _ _ => true
  | .iorst _ _ => true
  | .halt _ _ => true
  | .skpbnCpu _ => true
  | .skpbzCpu _ => true
  | .skpdnCpu _ => true
  | .skpdzCpu _ => true
  | .nio _ _ d => genericDev mdv d
  | .dia _ _ d => genericDev mdv d
  | .doa _ _ d => genericDev mdv d
  | .dib _ _ d => genericDev mdv d
  | .dob _ _ d => genericDev mdv d
  | .dic _ _ d => genericDev mdv d
  | .doc _ _ d => genericDev mdv d
  | .skp _ _ d => genericDev mdv d

end Sys2Proof
end

