-- ==== Sys2Proof/Decode.lean ====
section
/-! DEFINITION. The decoder (R70 to R84 of 30_encoding.md) and, after it, the encoder (R90) and the opcode table's
rows. Bits are numbered LSB-0 (R7). -/

namespace Sys2Proof

/-! ## Fields (R72 to R76: the n-th item of each list has value n - 1) -/

def Ac.ofBits (b : BitVec 2) : Ac :=
  match b.toNat with
  | 0 => .ac0
  | 1 => .ac1
  | 2 => .ac2
  | _ => .ac3

def Shift.ofBits (b : BitVec 2) : Shift :=
  match b.toNat with
  | 0 => .none
  | 1 => .left
  | 2 => .right
  | _ => .swap

def CarrySel.ofBits (b : BitVec 2) : CarrySel :=
  match b.toNat with
  | 0 => .prev
  | 1 => .zero
  | 2 => .one
  | _ => .comp

def Skip.ofBits (b : BitVec 3) : Skip :=
  match b.toNat with
  | 0 => .never
  | 1 => .skp
  | 2 => .szc
  | 3 => .snc
  | 4 => .szr
  | 5 => .snr
  | 6 => .sez
  | _ => .sbn

def Mode.ofBits (b : BitVec 2) : Mode :=
  match b.toNat with
  | 0 => .pageZero
  | 1 => .pcRel
  | 2 => .ac2Rel
  | _ => .ac3Rel

def Ctl.ofBits (b : BitVec 2) : Ctl :=
  match b.toNat with
  | 0 => .none
  | 1 => .start
  | 2 => .clear
  | _ => .pulse

def IoTest.ofBits (b : BitVec 2) : IoTest :=
  match b.toNat with
  | 0 => .bn
  | 1 => .bz
  | 2 => .dn
  | _ => .dz

/-- The fields of an ALC word (R72). -/
def alcFieldsOf (w : Word) : AlcFields where
  acs := Ac.ofBits (w.extractLsb' 13 2)
  acd := Ac.ofBits (w.extractLsb' 11 2)
  sh := Shift.ofBits (w.extractLsb' 6 2)
  cy := CarrySel.ofBits (w.extractLsb' 4 2)
  nl := w.getLsbD 3
  sk := Skip.ofBits (w.extractLsb' 0 3)

/-- The address fields of a memory-reference word (R73). -/
def eaFieldsOf (w : Word) : EaFields where
  ind := w.getLsbD 10
  mode := Mode.ofBits (w.extractLsb' 8 2)
  disp := w.extractLsb' 0 8

/-- The AC field of the MRA and IOT formats (R74, R75; D5). -/
def acOf (w : Word) : Ac := Ac.ofBits (w.extractLsb' 11 2)

/-- The F field of an I/O word as a control function (R75). -/
def ctlOf (w : Word) : Ctl := Ctl.ofBits (w.extractLsb' 6 2)

/-- The F field of an I/O word as the test of OP 7 (R75, R185). -/
def testOf (w : Word) : IoTest := IoTest.ofBits (w.extractLsb' 6 2)

/-- The DEV field of an I/O word (R75). -/
def devOf (w : Word) : DevCode := w.extractLsb' 0 6

/-! ## The decoder -/

/-- ALC rows, by OP (R80). -/
def decodeAlc (w : Word) : Instr :=
  match (w.extractLsb' 8 3).toNat with
  | 0 => .com (alcFieldsOf w)
  | 1 => .neg (alcFieldsOf w)
  | 2 => .mov (alcFieldsOf w)
  | 3 => .inc (alcFieldsOf w)
  | 4 => .adc (alcFieldsOf w)
  | 5 => .sub (alcFieldsOf w)
  | 6 => .add (alcFieldsOf w)
  | _ => .and (alcFieldsOf w)

/-- Memory-reference rows, by GRP and FN (R81). -/
def decodeMemRef (w : Word) : Instr :=
  match (w.extractLsb' 13 2).toNat with
  | 0 =>
    match (w.extractLsb' 11 2).toNat with
    | 0 => .jmp (eaFieldsOf w)
    | 1 => .jsr (eaFieldsOf w)
    | 2 => .isz (eaFieldsOf w)
    | _ => .dsz (eaFieldsOf w)
  | 1 => .lda (acOf w) (eaFieldsOf w)
  | _ => .sta (acOf w) (eaFieldsOf w)

/-- The rows of device code 0o77, by OP (R83); OP 7 by F. -/
def decodeCpu (w : Word) : Instr :=
  match (w.extractLsb' 8 3).toNat with
  | 0 => .nioCpu (acOf w) (ctlOf w)
  | 1 => .reads (acOf w) (ctlOf w)
  | 2 => .doaCpu (acOf w) (ctlOf w)
  | 3 => .inta (acOf w) (ctlOf w)
  | 4 => .msko (acOf w) (ctlOf w)
  | 5 => .iorst (acOf w) (ctlOf w)
  | 6 => .halt (acOf w) (ctlOf w)
  | _ =>
    match testOf w with
    | .bn => .skpbnCpu (acOf w)
    | .bz => .skpbzCpu (acOf w)
    | .dn => .skpdnCpu (acOf w)
    | .dz => .skpdzCpu (acOf w)

/-- DOC to the multiply/divide unit (R84): DIV and MUL are the exact words with AC = 2, the most specific rows
(R79). -/
def decodeDocMdv (ac : Ac) (f : Ctl) : Instr :=
  match f with
  | .start => if ac = .ac2 then .div else .docMdv ac false
  | .pulse => if ac = .ac2 then .mul else .docMdv ac true
  | .none => .otherMdv ac .doc .none
  | .clear => .otherMdv ac .doc .clear

/-- The rows of device code 0o01 when MDV_PRESENT (R84). -/
def decodeMdv (w : Word) : Instr :=
  match (w.extractLsb' 8 3).toNat with
  | 0 => .otherMdv (acOf w) .nio (ctlOf w)
  | 1 => .otherMdv (acOf w) .dia (ctlOf w)
  | 2 => .otherMdv (acOf w) .doa (ctlOf w)
  | 3 => .otherMdv (acOf w) .dib (ctlOf w)
  | 4 => .otherMdv (acOf w) .dob (ctlOf w)
  | 5 => .otherMdv (acOf w) .dic (ctlOf w)
  | 6 => decodeDocMdv (acOf w) (ctlOf w)
  | _ => .skpMdv (acOf w) (testOf w)

/-- The generic I/O rows (R82). -/
def decodeGeneric (w : Word) : Instr :=
  match (w.extractLsb' 8 3).toNat with
  | 0 => .nio (acOf w) (ctlOf w) (devOf w)
  | 1 => .dia (acOf w) (ctlOf w) (devOf w)
  | 2 => .doa (acOf w) (ctlOf w) (devOf w)
  | 3 => .dib (acOf w) (ctlOf w) (devOf w)
  | 4 => .dob (acOf w) (ctlOf w) (devOf w)
  | 5 => .dic (acOf w) (ctlOf w) (devOf w)
  | 6 => .doc (acOf w) (ctlOf w) (devOf w)
  | _ => .skp (acOf w) (testOf w) (devOf w)

/-- Dispatch of an I/O word on its device code (R170, R79). -/
def decodeIo (mdv : Bool) (w : Word) : Instr :=
  if devOf w = 0o77#6 then decodeCpu w
  else if mdv = true ∧ devOf w = 0o01#6 then decodeMdv w
  else decodeGeneric w

/-- The instruction a word is, with MDV_PRESENT = `mdv`: class decode by the top bits (R71). Total on all 65536
words (R85). -/
def decode (mdv : Bool) (w : Word) : Instr :=
  if w.getLsbD 15 then decodeAlc w
  else if w.extractLsb' 13 2 = 3#2 then decodeIo mdv w
  else decodeMemRef w

/-- Why a byte string is no instruction. -/
inductive DecodeError where
  /-- Fewer bytes than the one word every instruction is (R70). -/
  | truncated
deriving DecidableEq, Repr

/-- The instruction at the head of a byte string, with the bytes that follow it. The low byte of the word comes
first, as the model lays out memory (log entry 14). -/
def decodeBytes (mdv : Bool) : List Byte → Except DecodeError (Instr × List Byte)
  | lo :: hi :: rest => .ok (decode mdv (hi ++ lo), rest)
  | _ => .error .truncated

/-! ## The encoder (R90) -/

def Ac.toBits : Ac → BitVec 2
  | .ac0 => 0
  | .ac1 => 1
  | .ac2 => 2
  | .ac3 => 3

def Shift.toBits : Shift → BitVec 2
  | .none => 0
  | .left => 1
  | .right => 2
  | .swap => 3

def CarrySel.toBits : CarrySel → BitVec 2
  | .prev => 0
  | .zero => 1
  | .one => 2
  | .comp => 3

def Skip.toBits : Skip → BitVec 3
  | .never => 0
  | .skp => 1
  | .szc => 2
  | .snc => 3
  | .szr => 4
  | .snr => 5
  | .sez => 6
  | .sbn => 7

def Mode.toBits : Mode → BitVec 2
  | .pageZero => 0
  | .pcRel => 1
  | .ac2Rel => 2
  | .ac3Rel => 3

def Ctl.toBits : Ctl → BitVec 2
  | .none => 0
  | .start => 1
  | .clear => 2
  | .pulse => 3

def IoTest.toBits : IoTest → BitVec 2
  | .bn => 0
  | .bz => 1
  | .dn => 2
  | .dz => 3

def IoOp.toBits : IoOp → BitVec 3
  | .nio => 0
  | .dia => 1
  | .doa => 2
  | .dib => 3
  | .dob => 4
  | .dic => 5
  | .doc => 6

/-- An ALC word: class 1, ACS, ACD, OP, SH, CY, NL, SKIP from the top bit down (R72). -/
def alcWord (op : BitVec 3) (a : AlcFields) : Word :=
  1#1 ++ (a.acs.toBits ++ (a.acd.toBits ++ (op ++ (a.sh.toBits ++ (a.cy.toBits ++
    (BitVec.ofBool a.nl ++ a.sk.toBits))))))

/-- A memory-reference word: GRP with class 0 (3 bits), FN or AC, I, MODE, DISP (R73, R74). -/
def memRefWord (grp : BitVec 3) (fn : BitVec 2) (m : EaFields) : Word :=
  grp ++ (fn ++ (BitVec.ofBool m.ind ++ (m.mode.toBits ++ m.disp)))

/-- An I/O word: 011, AC, OP, F, DEV (R75). -/
def ioWord (ac : Ac) (op : BitVec 3) (f : BitVec 2) (dev : DevCode) : Word :=
  3#3 ++ (ac.toBits ++ (op ++ (f ++ dev)))

/-- The word of an instruction. -/
def encode : Instr → Word
  | .com a => alcWord 0 a
  | .neg a => alcWord 1 a
  | .mov a => alcWord 2 a
  | .inc a => alcWord 3 a
  | .adc a => alcWord 4 a
  | .sub a => alcWord 5 a
  | .add a => alcWord 6 a
  | .and a => alcWord 7 a
  | .jmp m => memRefWord 0 0 m
  | .jsr m => memRefWord 0 1 m
  | .isz m => memRefWord 0 2 m
  | .dsz m => memRefWord 0 3 m
  | .lda ac m => memRefWord 1 ac.toBits m
  | .sta ac m => memRefWord 2 ac.toBits m
  | .mul => ioWord .ac2 6 3 0o01
  | .div => ioWord .ac2 6 1 0o01
  | .docMdv ac pulse => ioWord ac 6 (if pulse then 3 else 1) 0o01
  | .skpMdv ac t => ioWord ac 7 t.toBits 0o01
  | .otherMdv ac op f => ioWord ac op.toBits f.toBits 0o01
  | .nioCpu ac f => ioWord ac 0 f.toBits 0o77
  | .reads ac f => ioWord ac 1 f.toBits 0o77
  | .doaCpu ac f => ioWord ac 2 f.toBits 0o77
  | .inta ac f => ioWord ac 3 f.toBits 0o77
  | .msko ac f => ioWord ac 4 f.toBits 0o77
  | .iorst ac f => ioWord ac 5 f.toBits 0o77
  | .halt ac f => ioWord ac 6 f.toBits 0o77
  | .skpbnCpu ac => ioWord ac 7 0 0o77
  | .skpbzCpu ac => ioWord ac 7 1 0o77
  | .skpdnCpu ac => ioWord ac 7 2 0o77
  | .skpdzCpu ac => ioWord ac 7 3 0o77
  | .nio ac f d => ioWord ac 0 f.toBits d
  | .dia ac f d => ioWord ac 1 f.toBits d
  | .doa ac f d => ioWord ac 2 f.toBits d
  | .dib ac f d => ioWord ac 3 f.toBits d
  | .dob ac f d => ioWord ac 4 f.toBits d
  | .dic ac f d => ioWord ac 5 f.toBits d
  | .doc ac f d => ioWord ac 6 f.toBits d
  | .skp ac t d => ioWord ac 7 t.toBits d

/-- A word as its two byte cells, low byte first (log entry 14). -/
def wordBytes (w : Word) : List Byte :=
  [w.extractLsb' 0 8, w.extractLsb' 8 8]

/-- The bytes of an instruction. -/
def encodeBytes (i : Instr) : List Byte := wordBytes (encode i)

/-- The word whose bits, numbered as opcode_table.json numbers them, are the low `nbits` bits of `w`. -/
def tableWord (nbits w : Nat) : Word := BitVec.ofNat 16 (w % 2 ^ nbits)

/-- The instruction the decoder reads from an opcode-table word, with the MDV rows in the table (R79). -/
def decodeTableWord (nbits w : Nat) : Option Instr :=
  match decodeBytes true (wordBytes (tableWord nbits w)) with
  | .ok (i, _) => some i
  | .error _ => none

/-! ## The opcode table's rows -/

/-- A row of opcode_table.json: a word `w` selects it when `w &&& mask = pattern` (R79). -/
structure Row where
  mnemonic : String
  pattern : Word
  mask : Word
deriving DecidableEq, Repr

/-- The row of each instruction (R80 to R84). -/
def Instr.row : Instr → Row
  | .com _ => ⟨"COM", 0x8000, 0x8700⟩
  | .neg _ => ⟨"NEG", 0x8100, 0x8700⟩
  | .mov _ => ⟨"MOV", 0x8200, 0x8700⟩
  | .inc _ => ⟨"INC", 0x8300, 0x8700⟩
  | .adc _ => ⟨"ADC", 0x8400, 0x8700⟩
  | .sub _ => ⟨"SUB", 0x8500, 0x8700⟩
  | .add _ => ⟨"ADD", 0x8600, 0x8700⟩
  | .and _ => ⟨"AND", 0x8700, 0x8700⟩
  | .jmp _ => ⟨"JMP", 0x0000, 0xF800⟩
  | .jsr _ => ⟨"JSR", 0x0800, 0xF800⟩
  | .isz _ => ⟨"ISZ", 0x1000, 0xF800⟩
  | .dsz _ => ⟨"DSZ", 0x1800, 0xF800⟩
  | .lda _ _ => ⟨"LDA", 0x2000, 0xE000⟩
  | .sta _ _ => ⟨"STA", 0x4000, 0xE000⟩
  | .mul => ⟨"MUL", 0x76C1, 0xFFFF⟩
  | .div => ⟨"DIV", 0x7641, 0xFFFF⟩
  | .docMdv _ _ => ⟨"DOCS_DOCP_ac_MDV__ac____2", 0x6641, 0xE77F⟩
  | .skpMdv _ _ => ⟨"SKP_MDV", 0x6701, 0xE73F⟩
  | .otherMdv _ _ _ => ⟨"other_MDV", 0x6001, 0xE03F⟩
  | .nioCpu _ _ => ⟨"NIO_CPU__INTEN_NIOS__INTDS_NIOC", 0x603F, 0xE73F⟩
  | .reads _ _ => ⟨"READS", 0x613F, 0xE73F⟩
  | .doaCpu _ _ => ⟨"DOA_ac_CPU", 0x623F, 0xE73F⟩
  | .inta _ _ => ⟨"INTA", 0x633F, 0xE73F⟩
  | .msko _ _ => ⟨"MSKO", 0x643F, 0xE73F⟩
  | .iorst _ _ => ⟨"IORST", 0x653F, 0xE73F⟩
  | .halt _ _ => ⟨"HALT", 0x663F, 0xE73F⟩
  | .skpbnCpu _ => ⟨"SKPBN_CPU", 0x673F, 0xE7FF⟩
  | .skpbzCpu _ => ⟨"SKPBZ_CPU", 0x677F, 0xE7FF⟩
  | .skpdnCpu _ => ⟨"SKPDN_CPU", 0x67BF, 0xE7FF⟩
  | .skpdzCpu _ => ⟨"SKPDZ_CPU", 0x67FF, 0xE7FF⟩
  | .nio _ _ _ => ⟨"NIO", 0x6000, 0xE700⟩
  | .dia _ _ _ => ⟨"DIA", 0x6100, 0xE700⟩
  | .doa _ _ _ => ⟨"DOA", 0x6200, 0xE700⟩
  | .dib _ _ _ => ⟨"DIB", 0x6300, 0xE700⟩
  | .dob _ _ _ => ⟨"DOB", 0x6400, 0xE700⟩
  | .dic _ _ _ => ⟨"DIC", 0x6500, 0xE700⟩
  | .doc _ _ _ => ⟨"DOC", 0x6600, 0xE700⟩
  | .skp _ _ _ => ⟨"SKP", 0x6700, 0xE700⟩

/-- The rows of the multiply/divide unit (R84). -/
def mdvRows : List Row :=
  [⟨"MUL", 0x76C1, 0xFFFF⟩,
   ⟨"DIV", 0x7641, 0xFFFF⟩,
   ⟨"DOCS_DOCP_ac_MDV__ac____2", 0x6641, 0xE77F⟩,
   ⟨"SKP_MDV", 0x6701, 0xE73F⟩,
   ⟨"other_MDV", 0x6001, 0xE03F⟩]

/-- The rows of the other instructions (R80 to R83). -/
def baseRows : List Row :=
  [⟨"COM", 0x8000, 0x8700⟩,
   ⟨"NEG", 0x8100, 0x8700⟩,
   ⟨"MOV", 0x8200, 0x8700⟩,
   ⟨"INC", 0x8300, 0x8700⟩,
   ⟨"ADC", 0x8400, 0x8700⟩,
   ⟨"SUB", 0x8500, 0x8700⟩,
   ⟨"ADD", 0x8600, 0x8700⟩,
   ⟨"AND", 0x8700, 0x8700⟩,
   ⟨"JMP", 0x0000, 0xF800⟩,
   ⟨"JSR", 0x0800, 0xF800⟩,
   ⟨"ISZ", 0x1000, 0xF800⟩,
   ⟨"DSZ", 0x1800, 0xF800⟩,
   ⟨"LDA", 0x2000, 0xE000⟩,
   ⟨"STA", 0x4000, 0xE000⟩,
   ⟨"NIO_CPU__INTEN_NIOS__INTDS_NIOC", 0x603F, 0xE73F⟩,
   ⟨"READS", 0x613F, 0xE73F⟩,
   ⟨"DOA_ac_CPU", 0x623F, 0xE73F⟩,
   ⟨"INTA", 0x633F, 0xE73F⟩,
   ⟨"MSKO", 0x643F, 0xE73F⟩,
   ⟨"IORST", 0x653F, 0xE73F⟩,
   ⟨"HALT", 0x663F, 0xE73F⟩,
   ⟨"SKPBN_CPU", 0x673F, 0xE7FF⟩,
   ⟨"SKPBZ_CPU", 0x677F, 0xE7FF⟩,
   ⟨"SKPDN_CPU", 0x67BF, 0xE7FF⟩,
   ⟨"SKPDZ_CPU", 0x67FF, 0xE7FF⟩,
   ⟨"NIO", 0x6000, 0xE700⟩,
   ⟨"DIA", 0x6100, 0xE700⟩,
   ⟨"DOA", 0x6200, 0xE700⟩,
   ⟨"DIB", 0x6300, 0xE700⟩,
   ⟨"DOB", 0x6400, 0xE700⟩,
   ⟨"DIC", 0x6500, 0xE700⟩,
   ⟨"DOC", 0x6600, 0xE700⟩,
   ⟨"SKP", 0x6700, 0xE700⟩]

/-- The opcode table; the MDV rows are removed when MDV_PRESENT is false (R79). -/
def tableRows (mdv : Bool) : List Row := if mdv then mdvRows ++ baseRows else baseRows

/-- A word selects a row (R79). -/
def Row.selectedBy (r : Row) (w : Word) : Bool := w &&& r.mask == r.pattern

/-- How many bits a mask has: the more, the more specific its row (R79). -/
def maskWeight (m : Word) : Nat := (List.range 16).countP fun i => m.getLsbD i

end Sys2Proof
end

