-- ==== Sys2Proof/Config.lean ====
section
/-! DEFINITION. What an implementation fixes (the parameters of R6, 00_scope.md) and the free values
(`draw(n)` of R9): constants with no body, so that no proof can see what they are. -/

namespace Sys2Proof

/-- The line frequency of the real-time clock (R6, R277). -/
inductive LineHz where
  | hz50
  | hz60
deriving DecidableEq, Repr

/-- The parameters of R6 but for DEVICES, whose entries hold the controllers' states and stand in
`State.devices`. The machine never changes them. -/
structure Config where
  /-- MDV_PRESENT: whether the multiply/divide unit answers at device code 0o01 (R230). -/
  mdvPresent : Bool
  /-- HOP_CAP: most indirect hops of one address resolution; `none` is infinity (R147). -/
  hopCap : Option Nat
  /-- MASK_BIT: the bit of the MSKO word that belongs to each priority (R203, D9). -/
  maskBit : Vector (Fin 16) 16
  /-- LINE_HZ (R277); it gates no rule, because time is not modelled (R275). -/
  lineHz : LineHz
  /-- BOOT_BLOB: the 32 words ProgramLoad writes (R317), `none` where the platform gives none. -/
  bootBlob : Option (Vector Word 32)
deriving DecidableEq, Repr

/-- Free value: the `n`-th `draw(16)` (R9, R174): any 16-bit value, chosen anew each time.
DESIGN CHOICE of form only (log entry 17). -/
opaque Config.freeWord : Nat → Word

/-- Free value: the `n`-th `draw(1)` (R9, R303): the carry after a console Reset (log entry 18). -/
opaque Config.freeBit : Nat → Bool

end Sys2Proof
end

