-- ==== Sys2Proof/Machine/State.lean ====
section
/-! DEFINITION. The state of the machine as plain data (10_state.md), the environment's inputs and the block's
outputs (60_exceptions.md section 5, 70_reset_and_hazards.md), the faults and refusals, and the state after reset. -/

namespace Sys2Proof.Machine

/-- The four accumulators AC0..AC3 (R20). -/
structure Accs where
  ac0 : Word
  ac1 : Word
  ac2 : Word
  ac3 : Word
deriving DecidableEq, Repr

/-- Main memory (R29) as the byte cells that do not read as 0, in the canonical form `Memory.wf`: the word at word
address `a` is the bytes `2a` (bits 7:0) and `2a + 1` (bits 15:8). The byte order is the model's, DESIGN CHOICE, safe:
no program can observe it (R53, log entry 14). -/
abbrev Memory := List Host.Cell

/-- The run control RUN (R27). -/
inductive RunState where
  | stopped
  | running
deriving DecidableEq, Repr

/-- The fault latch FAULT (R28). -/
inductive FaultLatch where
  | none
  | indirectLoop
deriving DecidableEq, Repr

/-- The Busy/Done state machine of a controller (R34, R270). -/
inductive DevState where
  | idle
  | busy
  | done
deriving DecidableEq, Repr

/-- A controller's kind with the data that kind has (R34). `attached` says whether a host stream is attached (R279)
and `sent` is the model's record of the bytes a writer's stream has received, oldest first (log entry 38). -/
inductive DevUnit where
  | reader (inbuf : Word) (attached : Bool)
  | writer (outbuf : Word) (attached : Bool) (sent : List Byte)
  | rtc (psel : BitVec 2)
deriving DecidableEq, Repr

/-- An installed controller (R33, R34). `code` and `priority` never change. -/
structure Controller where
  code : DevCode
  priority : Fin 16
  st : DevState
  unit : DevUnit
deriving DecidableEq, Repr

/-- What the host stream answers at a completion tick (R274, R278): a byte (for a writer: accepted), EOF, or an I/O
error other than EOF. -/
inductive StreamAnswer where
  | byte (b : Byte)
  | eof
  | error
deriving DecidableEq, Repr

/-- One completion tick, the step of a device agent (R274): which controller, and what its stream answers. -/
structure Completion where
  code : DevCode
  answer : StreamAnswer
deriving DecidableEq, Repr

/-- A console request (R306 to R318). The instruction step that InstStep makes may have completions between its
execute phase and its interrupt check (R281). -/
inductive ConsoleOp where
  | start (a : Word)
  | resume
  | stop
  | reset
  | instStep (mid : List Completion)
  | deposit (a : Word) (d : Word)
  | depositNext (d : Word)
  | examine (a : Word)
  | examineNext
  | switches (d : Word)
  | loadMemory (a : Word) (words : List Word)
  | programLoad
  | attach (d : DevCode)
  | status
  | waitForHalt
deriving DecidableEq, Repr

/-- A reply of the block to the console (R303, R306 to R320). -/
inductive Reply where
  /-- No request has been answered yet. -/
  | none
  | ack
  | pc (a : Addr)
  | stepped (a : Addr) (halt : Bool)
  | word (w : Word)
  | runState (r : RunState)
  /-- The core is running and the request was turned away (R319). -/
  | running
  /-- The error report of a run or a step that ended in IndirectLoop (R320). -/
  | indirectLoop
  /-- WaitForHalt found no halt signal and no fault. -/
  | timeout
  /-- A console error that leaves the state unchanged (R319). -/
  | error
deriving DecidableEq, Repr

/-- Whose turn it is (R11, R281): the core's, with the completions that fall between the execute phase and the
interrupt check of its step; one device agent's, at an instruction boundary; or the console's (R283). -/
inductive Turn where
  | core (mid : List Completion)
  | device (c : Completion)
  | console (op : ConsoleOp)
deriving DecidableEq, Repr

/-- The whole state. `cfg`, `reply`, `agenda` and `draws` are the model's own fields (INVENTORY.md, State). -/
structure State where
  /-- AC0..AC3 (R20). -/
  acs : Accs
  /-- PC (R21). -/
  pc : Addr
  /-- C (R22). -/
  carry : Bool
  /-- ION (R23). -/
  ion : Bool
  /-- ION-pending (R24). -/
  ionp : Bool
  /-- SR, the switch register (R25). -/
  sr : Word
  /-- RUN (R27). -/
  run : RunState
  /-- FAULT (R28). -/
  latch : FaultLatch
  /-- M (R29). -/
  mem : Memory
  /-- REQ, the request bitset (R30). -/
  req : DevSet
  /-- DIS, the disable bitset (R31). -/
  dis : DevSet
  /-- The device table with the controllers' states (R33, R34), one entry per installed code. -/
  devices : List Controller
  /-- The halt signal, an output (R27). -/
  haltSignal : Bool
  /-- The last reply to the console, an output (log entry 37). -/
  reply : Reply
  /-- The parameters of R6, constant (log entry 1). -/
  cfg : Config
  /-- The turns to come; the empty list is the core's turn with no completion (log entry 15). -/
  agenda : List Turn
  /-- How many free values have been drawn (log entry 17). -/
  draws : Nat
deriving DecidableEq, Repr

/-- Why the machine has no next step. -/
inductive Fault where
  /-- Raised by an address resolution (of a memory-reference instruction or of the interrupt sequence) whose indirect
  chain never ends, when HOP_CAP is infinite: the instruction never retires (R147; U2 of 93_implementation_defined.md:
  stuck). Safe: the hardware hangs too, and nothing is claimed of a state after it (log entry 5). -/
  | indirectHang
deriving DecidableEq, Repr

/-- What the model gives no meaning. -/
inductive Refusal where
  /-- Raised by `exec` for an instruction with no meaning yet. Safe. -/
  | notModelled (mnemonic : String)
  /-- Raised by DOCS and DOCP to MDV with an accumulator field other than 2: refused by R234. Safe. -/
  | mdvAccumulatorField
  /-- Raised by MSKO when two installed controllers have one priority: the source calls the collision
  implementation-defined and R328 refuses it. Safe (log entry 30). -/
  | priorityCollision
  /-- Raised by the console's ProgramLoad when the platform gives no BOOT_BLOB: refused by D24 (R317). Safe. -/
  | bootBlobAbsent
deriving DecidableEq, Repr

/-- The outcome of an instruction, of a console request and of a step. -/
abbrev Result := Host.Outcome State Fault Refusal

/-- The parameters at reset: HOP_CAP = 2^15, MASK_BIT(p) = p, LINE_HZ = 60 as R6 takes them; MDV_PRESENT true and no
BOOT_BLOB, DESIGN CHOICE, unsafe (log entries 3 to 8). -/
def resetConfig : Config where
  mdvPresent := true
  hopCap := some 32768
  maskBit := #v[0, 1, 2, 3, 4, 5, 6, 7, 8, 9, 10, 11, 12, 13, 14, 15]
  lineHz := .hz60
  bootBlob := none

/-- The installed controllers at reset: those of the premises of 95_test_vectors.md, DESIGN CHOICE, unsafe (R6: DEVICES
is open; log entry 2), all Idle (R39) with zero buffers (log entry 13). -/
def resetDevices : List Controller :=
  [ { code := 0o10, priority := 3, st := .idle, unit := .reader 0 true },
    { code := 0o11, priority := 4, st := .idle, unit := .writer 0 true [] },
    { code := 0o14, priority := 6, st := .idle, unit := .rtc 0 } ]

/-- The machine at power-on (R39, R301): stopped, memory zero, interrupts off, nothing masked or pending. AC, PC, C and
SR are 0 by DESIGN CHOICE, unsafe: the spec leaves them open (R40; log entries 9 to 12). -/
def State.reset : State where
  acs := ⟨0, 0, 0, 0⟩
  pc := 0
  carry := false
  ion := false
  ionp := false
  sr := 0
  run := .stopped
  latch := .none
  mem := []
  req := 0
  dis := 0
  devices := resetDevices
  haltSignal := false
  reply := .none
  cfg := resetConfig
  agenda := []
  draws := 0

end Sys2Proof.Machine
end

