-- ==== Sys2Proof/Machine/Ops.lean ====
section
/-! DEFINITION. The named operations over memory, registers, the indirect chain, the interrupt arbiter and the
controllers, and the interrupt sequence: every meaning is written over these. -/

namespace Sys2Proof.Machine

/-! ## Memory (20_memory.md) -/

/-- The byte cell `k`; an unlisted cell reads 0, because memory is zero-initialised (R29). -/
def Memory.readByte : Memory → Nat → Byte
  | [], _ => 0#8
  | (a, b) :: rest, k => if k = a then b else Memory.readByte rest k

/-- Store a byte cell, keeping the canonical form: an entry in place by its address, and no entry for a 0. -/
def Memory.writeByte : Memory → Nat → Byte → Memory
  | [], k, v => if v = 0#8 then [] else [(k, v)]
  | (a, b) :: rest, k, v =>
    if k < a then (if v = 0#8 then (a, b) :: rest else (k, v) :: (a, b) :: rest)
    else if k = a then (if v = 0#8 then rest else (k, v) :: rest)
    else (a, b) :: Memory.writeByte rest k v

/-- The canonical form from cell `lo` on: addresses strictly rising and below 2^16, no entry that reads as an unlisted
cell reads. -/
def Memory.wfFrom : Nat → Memory → Bool
  | _, [] => true
  | lo, (a, b) :: rest => decide (lo ≤ a) && decide (a < 65536) && b != 0#8 && Memory.wfFrom (a + 1) rest

/-- The canonical form of memory: equal memories are equal lists. -/
def Memory.wf (m : Memory) : Bool := Memory.wfFrom 0 m

/-- The cell of bits 7:0 of the word at `a` (log entry 14). -/
def loCell (a : Addr) : Nat := 2 * a.toNat

/-- The cell of bits 15:8 of the word at `a`. -/
def hiCell (a : Addr) : Nat := 2 * a.toNat + 1

/-- `MemRead(a, 16)` (R9, R51). Every 15-bit address holds a word (R52). -/
def Memory.readWord (m : Memory) (a : Addr) : Word :=
  m.readByte (hiCell a) ++ m.readByte (loCell a)

/-- `MemWrite(a, 16, v)` (R9, R51). -/
def Memory.writeWord (m : Memory) (a : Addr) (v : Word) : Memory :=
  (m.writeByte (loCell a) (v.extractLsb' 0 8)).writeByte (hiCell a) (v.extractLsb' 8 8)

/-- `MemWrite((a + i) mod 2^15, 16, words[i])` for each `i` in order (R316). -/
def Memory.writeWords (m : Memory) (a : Addr) : List Word → Memory
  | [] => m
  | w :: rest => Memory.writeWords (m.writeWord a w) (a + 1) rest

/-- The low 15 bits of a computed 16-bit address (R52). -/
def maskAddr (v : Word) : Addr := v.setWidth 15

/-- A 15-bit value as a word, bit 15 clear (R9: `zext_16`). -/
def zext (a : Addr) : Word := a.setWidth 16

/-! ## Accumulators and the program counter (R20, R21) -/

def Accs.get (r : Accs) : Ac → Word
  | .ac0 => r.ac0
  | .ac1 => r.ac1
  | .ac2 => r.ac2
  | .ac3 => r.ac3

def Accs.set (r : Accs) : Ac → Word → Accs
  | .ac0, v => { r with ac0 := v }
  | .ac1, v => { r with ac1 := v }
  | .ac2, v => { r with ac2 := v }
  | .ac3, v => { r with ac3 := v }

/-- `AC[i]`. -/
def State.ac (s : State) (i : Ac) : Word := s.acs.get i

/-- `AC[i] <- v`. -/
def State.setAc (s : State) (i : Ac) (v : Word) : State := { s with acs := s.acs.set i v }

/-- `PC <- a`. -/
def State.setPc (s : State) (a : Addr) : State := { s with pc := a }

/-- `skip` when the condition holds: PC is incremented once more, modulo 2^15 (R9, R107). -/
def State.skipIf (s : State) (b : Bool) : State := { s with pc := if b then s.pc + 1 else s.pc }

/-- `M[a]`. -/
def State.read (s : State) (a : Addr) : Word := s.mem.readWord a

/-- `M[a] <- v`. -/
def State.write (s : State) (a : Addr) (v : Word) : State := { s with mem := s.mem.writeWord a v }

/-! ## Free values (R9) -/

/-- The next `draw(16)`. -/
def State.drawnWord (s : State) : Word := Sys2Proof.Config.freeWord s.draws

/-- The next `draw(1)`. -/
def State.drawnBit (s : State) : Bool := Sys2Proof.Config.freeBit s.draws

/-- One more free value has been drawn. -/
def State.countDraw (s : State) : State := { s with draws := s.draws + 1 }

/-! ## The indirect chain (41_memref.md, R143 to R148) -/

/-- The auto-increment cells 0o20..0o27 (R145). -/
def isAutoInc (a : Addr) : Bool := decide (0o20 ≤ a.toNat ∧ a.toNat ≤ 0o27)

/-- The auto-decrement cells 0o30..0o37 (R145). -/
def isAutoDec (a : Addr) : Bool := decide (0o30 ≤ a.toNat ∧ a.toNat ≤ 0o37)

/-- The word a hop at `a` uses after loading `w`: the modified one in an auto-index cell (R145). -/
def hopWord (a : Addr) (w : Word) : Word :=
  if isAutoInc a then w + 1 else if isAutoDec a then w - 1 else w

/-- Memory after a hop at `a` that loaded `w`: written in an auto-index cell only (R145, R57). -/
def hopMemory (m : Memory) (a : Addr) (w : Word) : Memory :=
  if isAutoInc a || isAutoDec a then m.writeWord a (hopWord a w) else m

/-- How an indirect chain comes out: it ends at an address, or the hops run out with another asked for. With it, memory
as the hops left it. -/
inductive Chain where
  | ends (e : Addr) (m : Memory)
  | loops (m : Memory)
deriving DecidableEq, Repr

/-- At most `n` hops from the masked address `a` (R143). The chain continues when bit 15 of the word AS LOADED is set
(R144), and then from the word the hop used, masked (R146). -/
def chase : Nat → Memory → Addr → Chain
  | 0, m, _ => .loops m
  | n + 1, m, a =>
    let w := m.readWord a
    if w.getLsbD 15 then chase n (hopMemory m a w) (maskAddr (hopWord a w))
    else .ends (maskAddr (hopWord a w)) (hopMemory m a w)

/-- The hops a chain may make. With HOP_CAP infinite, 2^271: a chain's future depends only on the 15-bit address and
on the sixteen 16-bit auto-index cells, so a chain that has made 2^271 hops and asks for another repeats a state and
never ends (log entry 5). -/
def hopLimit (cfg : Config) : Nat :=
  match cfg.hopCap with
  | some n => n
  | none => 2 ^ 271

/-- `resolve(A, 1)` in a state (R143). -/
def State.followChain (s : State) (a : Addr) : Chain := chase (hopLimit s.cfg) s.mem a

/-- The machine when a chain has not ended (R147): with a HOP_CAP it latches IndirectLoop and stops, and everything else
stays as the hops left it; with HOP_CAP infinite it hangs. -/
def State.indirectLoop (s : State) : Result :=
  match s.cfg.hopCap with
  | some _ => .next { s with latch := .indirectLoop, run := .stopped }
  | none => .fault .indirectHang

/-- Go on with what a chain came to: with the effective address and memory as the hops left it, or in the IndirectLoop
stop. -/
def State.afterChain (s : State) (c : Chain) (k : Addr → State → State) : Result :=
  match c with
  | .ends e m => .next (k e { s with mem := m })
  | .loops m => State.indirectLoop { s with mem := m }

/-! ## The interrupt arbiter (R30 to R32, R255 to R263) -/

/-- `REQ & ~DIS`: the honoured requests (R256). -/
def State.honoured (s : State) : DevSet := s.req &&& ~~~s.dis

/-- The set with the one bit of device code `d`. -/
def devBit (d : DevCode) : DevSet := 1#64 <<< d.toNat

/-- `REQ[d] <- 1`. -/
def State.setReq (s : State) (d : DevCode) : State := { s with req := s.req ||| devBit d }

/-- `REQ[d] <- 0`. -/
def State.clearReq (s : State) (d : DevCode) : State := { s with req := s.req &&& ~~~devBit d }

/-- The lowest device code in a set, as a word, or 0 if the set is empty (R202). -/
def lowestCode (e : DevSet) : Word :=
  match (List.range 64).find? (fun d => e.getLsbD d) with
  | some d => BitVec.ofNat 16 d
  | none => 0

/-- Whether controller `c` is disabled by the priority mask `m` (R203). -/
def maskedBy (cfg : Config) (m : Word) (c : Controller) : Bool := m.getLsbD (cfg.maskBit[c.priority]).val

/-- The disable set that MSKO computes from the mask `m`: the codes of the installed controllers whose mask bit is set
(R203). -/
def maskSet (cfg : Config) (m : Word) : List Controller → DevSet
  | [] => 0
  | c :: rest => if maskedBy cfg m c then devBit c.code ||| maskSet cfg m rest else maskSet cfg m rest

/-- Priorities pairwise distinct (R6, R328). -/
def prioritiesDistinct (l : List Controller) : Bool := decide ((l.map fun c => c.priority).Nodup)

/-- ION-pending becomes ION (R251). -/
def State.promote (s : State) : State := { s with ion := s.ion || s.ionp, ionp := false }

/-- Taking an interrupt (R262): ION off, PC saved in cell 0, then the chain from cell 1. Nothing else is saved or changed
(R263). There is no return instruction: a handler returns by `INTEN` and `JMP @0` (R264, log entry 40). -/
def State.interruptSequence (s : State) : Result :=
  let saved := State.write { s with ion := false } 0 (zext s.pc)
  saved.afterChain (saved.followChain 1) fun e t => t.setPc e

/-- The end-of-instruction check (R261). -/
def State.interruptCheck (s : State) : Result :=
  if s.ion = true ∧ s.honoured ≠ 0#64 then s.interruptSequence else .next s

/-! ## Controllers (R33 to R35, R270 to R278) -/

/-- `dev(d)`. -/
def State.dev (s : State) (d : DevCode) : Option Controller := s.devices.find? fun c => c.code == d

/-- Change the controller at code `d`. -/
def updateCode (d : DevCode) (f : Controller → Controller) (l : List Controller) : List Controller :=
  l.map fun c => if c.code = d then f c else c

/-- The controller at code `d` goes to state `st`. -/
def State.setDevState (s : State) (d : DevCode) (st : DevState) : State :=
  { s with devices := updateCode d (fun c => { c with st := st }) s.devices }

/-- The data of the controller at code `d` changes by `f`. -/
def State.mapUnit (s : State) (d : DevCode) (f : DevUnit → DevUnit) : State :=
  { s with devices := updateCode d (fun c => { c with unit := f c.unit }) s.devices }

/-- Control S: Busy, and the request is dropped (R271). -/
def State.startDev (s : State) (d : DevCode) : State := (s.setDevState d .busy).clearReq d

/-- Control C: Idle, and the request is dropped (R272). -/
def State.clearDev (s : State) (d : DevCode) : State := (s.setDevState d .idle).clearReq d

/-- The control field of an I/O word on the controller at `d` (R176): P does nothing on the kinds in scope (R273). -/
def State.control (s : State) (f : Ctl) (d : DevCode) : State :=
  match f with
  | .none => s
  | .start => s.startDev d
  | .clear => s.clearDev d
  | .pulse => s

/-- RST to every installed controller (R276): Idle; the buffers stay. -/
def resetAll (l : List Controller) : List Controller := l.map fun c => { c with st := .idle }

/-- What IORST and the console's Reset both do (R205, R303): RST to every controller, ION, IONP, REQ, DIS all 0. -/
def State.resetIo (s : State) : State :=
  { s with devices := resetAll s.devices, ion := false, ionp := false, req := 0, dis := 0 }

/-- The physical action of a completion (R274): a reader takes the byte its stream answers, zero-extended, and keeps its
word at EOF or with no stream; a writer's low byte goes to its stream; the clock does nothing (R277). -/
def DevUnit.act (u : DevUnit) (ans : StreamAnswer) : DevUnit :=
  match u with
  | .reader inbuf attached =>
    match ans with
    | .byte b => .reader (if attached then b.setWidth 16 else inbuf) attached
    | .eof => .reader inbuf attached
    | .error => .reader inbuf attached
  | .writer outbuf attached sent =>
    .writer outbuf attached (if attached then sent ++ [outbuf.extractLsb' 0 8] else sent)
  | .rtc psel => .rtc psel

/-- The unit with a host stream attached (R279): the clock has none. -/
def DevUnit.attach (u : DevUnit) : DevUnit :=
  match u with
  | .reader inbuf _ => .reader inbuf true
  | .writer outbuf _ sent => .writer outbuf true sent
  | .rtc psel => .rtc psel

/-- Whether a stream answer stops the device: an I/O error of an attached stream (R278). -/
def DevUnit.failsOn (u : DevUnit) (ans : StreamAnswer) : Bool :=
  match u with
  | .reader _ attached => attached && ans == .error
  | .writer _ attached _ => attached && ans == .error
  | .rtc _ => false

/-- A completion tick (R274): nothing unless the controller is Busy; then the physical action, Done and the request bit
in one action, whatever DIS says (R35); or, on a stream error, Idle with no request (R278). -/
def State.tick (s : State) (t : Completion) : State :=
  match s.dev t.code with
  | none => s
  | some c =>
    if c.st = .busy then
      if c.unit.failsOn t.answer then s.clearDev t.code
      else ((s.mapUnit t.code fun u => u.act t.answer).setDevState t.code .done).setReq t.code
    else s

/-- Completion ticks in order. -/
def State.ticks (s : State) : List Completion → State
  | [] => s
  | t :: rest => (s.tick t).ticks rest

/-- The frequency in Hz that the clock's period select names (R277): line, 10, 100, 1000. It gates no rule, because time
is not modelled (R275). -/
def rtcHz (line : LineHz) (psel : BitVec 2) : Nat :=
  match psel.toNat with
  | 0 =>
    match line with
    | .hz50 => 50
    | .hz60 => 60
  | 1 => 10
  | 2 => 100
  | _ => 1000

/-- The line frequency a platform asks for: 50 or 60, and 60 for any other value (R277). -/
def lineHzOf (n : Nat) : LineHz := if n = 50 then .hz50 else .hz60

/-! ## Run control (R27) -/

/-- The core starts to run: a stale halt signal is drained and FAULT is reset (R305, R320). -/
def State.beginRun (s : State) : State :=
  { s with run := .running, latch := .none, haltSignal := false }

/-- A HALT retires: the core stops and the halt signal is published (R206, R250). -/
def State.haltRun (s : State) : State := { s with run := .stopped, haltSignal := true }

end Sys2Proof.Machine
end

