-- ==== Sys2Proof/Machine/Flags.lean ====
section
/-! DEFINITION. The ALC data path (40_alc.md section 1): carry select, the seeded 17-bit sum, the shifter, the skip
sensor; and the eight functions (section 2). The only flag is C (R118). -/

namespace Sys2Proof.Machine

/-- Carry select (R102). -/
def carrySelect (cy : CarrySel) (c : Bool) : Bool :=
  match cy with
  | .prev => c
  | .zero => false
  | .one => true
  | .comp => !c

/-- The 17-bit sum (R103): the register starts with the selected carry in bit 16 and the function value is added, so a
carry out of bit 15 complements the selected carry. -/
def seededSum (cin : Bool) (f : Alu) : Alu := (if cin then 0x10000#17 else 0) + f

/-- The shifter (R104 to R106): one place left or right through bit 16, or the byte swap. -/
def shifted (sh : Shift) (t : Alu) : Alu :=
  match sh with
  | .none => t
  | .left => t.extractLsb' 0 16 ++ t.extractLsb' 16 1
  | .right => t.extractLsb' 0 1 ++ t.extractLsb' 1 16
  | .swap => t.extractLsb' 16 1 ++ (t.extractLsb' 0 8 ++ t.extractLsb' 8 8)

/-- The carry candidate: bit 16 after the shift (R100). -/
def carryOf (u : Alu) : Bool := u.getLsbD 16

/-- The result: bits 15:0 after the shift (R100). -/
def resultOf (u : Alu) : Word := u.setWidth 16

/-- The skip sensor (R107), on the carry candidate and the result. -/
def skipHolds (sk : Skip) (cc : Bool) (r : Word) : Bool :=
  match sk with
  | .never => false
  | .skp => true
  | .szc => !cc
  | .snc => cc
  | .szr => r == 0
  | .snr => r != 0
  | .sez => !cc || r == 0
  | .sbn => cc && r != 0

/-! The eight functions as 17-bit values of the source `s` and the destination `d`. The spec takes them from general
knowledge of the architecture (D2; log entry 19). -/

/-- COM (R110). -/
def fCom (s _d : Word) : Alu := (~~~s).setWidth 17

/-- NEG (R111). -/
def fNeg (s _d : Word) : Alu := (~~~s).setWidth 17 + 1

/-- MOV (R112). -/
def fMov (s _d : Word) : Alu := s.setWidth 17

/-- INC (R113). -/
def fInc (s _d : Word) : Alu := s.setWidth 17 + 1

/-- ADC (R114). -/
def fAdc (s d : Word) : Alu := d.setWidth 17 + (~~~s).setWidth 17

/-- SUB (R115). -/
def fSub (s d : Word) : Alu := d.setWidth 17 + (~~~s).setWidth 17 + 1

/-- ADD (R116). -/
def fAdd (s d : Word) : Alu := d.setWidth 17 + s.setWidth 17

/-- AND (R117). -/
def fAnd (s d : Word) : Alu := (d &&& s).setWidth 17

end Sys2Proof.Machine
end

