-- ==== Sys2Proof/Machine/Operands.lean ====
section
/-! DEFINITION. Operand forms: the effective address of a memory reference (41_memref.md section 1), the operands and
the load of an ALC instruction (40_alc.md), the data of an I/O transfer (42_io.md section 1), the control field and the
tests. -/

namespace Sys2Proof.Machine

/-! ## Memory reference -/

/-- The signed value of the displacement in the relative modes (R142). -/
def sextDisp (disp : BitVec 8) : Word := disp.signExtend 16

/-- The 16-bit mode address A (R141). PC holds the address of the instruction plus one. -/
def State.modeAddress (s : State) (m : EaFields) : Word :=
  match m.mode with
  | .pageZero => m.disp.setWidth 16
  | .pcRel => zext s.pc - 1 + sextDisp m.disp
  | .ac2Rel => s.ac .ac2 + sextDisp m.disp
  | .ac3Rel => s.ac .ac3 + sextDisp m.disp

/-- `resolve(A, I)` (R143): a direct reference reads no memory, an indirect one follows the chain. -/
def State.resolve (s : State) (m : EaFields) : Chain :=
  if m.ind then s.followChain (maskAddr (s.modeAddress m)) else .ends (maskAddr (s.modeAddress m)) s.mem

/-- A memory-reference instruction (R140): the effective address first, then the operation at it. -/
def State.atAddress (s : State) (m : EaFields) (k : Addr → State → State) : Result :=
  s.afterChain (s.resolve m) k

/-! ## ALC -/

/-- Load or no-load (R108). -/
def State.loadAlc (s : State) (nl : Bool) (acd : Ac) (r : Word) (cc : Bool) : State :=
  { s with acs := if nl then s.acs else s.acs.set acd r, carry := if nl then s.carry else cc }

/-- The 17-bit value after carry select, function and shift (R100 steps 1 to 4). Both operands are read before anything
is written (R101). -/
def State.alcValue (s : State) (fn : Word → Word → Alu) (a : AlcFields) : Alu :=
  shifted a.sh (seededSum (carrySelect a.cy s.carry) (fn (s.ac a.acs) (s.ac a.acd)))

/-- The ALC data path (R100): load or discard, then decide the skip from the same carry candidate and result. -/
def State.alc (s : State) (fn : Word → Word → Alu) (a : AlcFields) : State :=
  let u := s.alcValue fn a
  (s.loadAlc a.nl a.acd (resultOf u) (carryOf u)).skipIf (skipHolds a.sk (carryOf u) (resultOf u))

/-! ## I/O transfers to a device code -/

/-- The reply word of an input operation, `none` where the controller has no data for it (R173, R174): only a reader has
an input register, A. -/
def inputA (c : Controller) : Option Word :=
  match c.unit with
  | .reader inbuf _ => some inbuf
  | .writer _ _ _ => none
  | .rtc _ => none

/-- No controller kind has input registers B and C, and NIO carries no data (R173, R174). -/
def inputNone (_c : Controller) : Option Word := none

/-- The data of the unit after an output to register A (R173, R179): a writer latches the word, the clock its two low
bits, a reader discards it. -/
def outputA (u : DevUnit) (w : Word) : DevUnit :=
  match u with
  | .reader inbuf attached => .reader inbuf attached
  | .writer _ attached sent => .writer w attached sent
  | .rtc _ => .rtc (w.extractLsb' 0 2)

/-- The accumulator takes the reply word of an input operation, or a free value where there is none (R174). -/
def State.takeReply (s : State) (ac : Ac) (reply : Option Word) : State :=
  match reply with
  | some w => s.setAc ac w
  | none => (s.setAc ac s.drawnWord).countDraw

/-- An input transfer (R171, R172): data first, then the control field. On an absent device nothing happens and no
accumulator is written (R184). -/
def State.ioInput (s : State) (data : Controller → Option Word) (ac : Ac) (f : Ctl) (d : DevCode) : State :=
  match s.dev d with
  | none => s
  | some c => (s.takeReply ac (data c)).control f d

/-- An output transfer to register A (R172, R179). -/
def State.ioOutputA (s : State) (ac : Ac) (f : Ctl) (d : DevCode) : State :=
  match s.dev d with
  | none => s
  | some _ => (s.mapUnit d fun u => outputA u (s.ac ac)).control f d

/-- An output transfer whose data is discarded: registers B and C (R173, R181, R183). -/
def State.ioOutputNone (s : State) (f : Ctl) (d : DevCode) : State :=
  match s.dev d with
  | none => s
  | some _ => s.control f d

/-- The test of SKP on a controller's state (R185). -/
def testHolds (t : IoTest) (st : DevState) : Bool :=
  match t with
  | .bn => st == .busy
  | .bz => st != .busy
  | .dn => st == .done
  | .dz => st != .done

/-- The test of SKP where nothing is Busy and nothing is Done: an absent device (R184), the MDV unit (R235). -/
def testIdle (t : IoTest) : Bool :=
  match t with
  | .bn => false
  | .bz => true
  | .dn => false
  | .dz => true

/-- The test of SKP at a device code (R184, R185). -/
def State.ioTest (s : State) (t : IoTest) (d : DevCode) : Bool :=
  match s.dev d with
  | none => testIdle t
  | some c => testHolds t c.st

/-! ## The CPU pseudo-device -/

/-- The control field on device 0o77 (R207, R208, R213): S sets ION-pending if ION is off, C clears both. -/
def State.cpuControl (s : State) (f : Ctl) : State :=
  match f with
  | .none => s
  | .start => { s with ionp := if s.ion then s.ionp else true }
  | .clear => { s with ion := false, ionp := false }
  | .pulse => s

end Sys2Proof.Machine
end

