-- ==== Sys2Proof/Machine/Alc.lean ====
section
/-! DEFINITION. The arithmetic/logical instructions (40_alc.md). Each is the data path of R100 over its function. -/

namespace Sys2Proof.Machine

/-- COM (R110). -/
def execCom (a : AlcFields) (s : State) : Result := .next (s.alc fCom a)

/-- NEG (R111). -/
def execNeg (a : AlcFields) (s : State) : Result := .next (s.alc fNeg a)

/-- MOV (R112; with CY = 0 carry is unchanged, 90_conflicts.md C2). -/
def execMov (a : AlcFields) (s : State) : Result := .next (s.alc fMov a)

/-- INC (R113). -/
def execInc (a : AlcFields) (s : State) : Result := .next (s.alc fInc a)

/-- ADC (R114). -/
def execAdc (a : AlcFields) (s : State) : Result := .next (s.alc fAdc a)

/-- SUB (R115). -/
def execSub (a : AlcFields) (s : State) : Result := .next (s.alc fSub a)

/-- ADD (R116). -/
def execAdd (a : AlcFields) (s : State) : Result := .next (s.alc fAdd a)

/-- AND (R117). -/
def execAnd (a : AlcFields) (s : State) : Result := .next (s.alc fAnd a)

end Sys2Proof.Machine
end

