-- ==== Sys2Proof/Machine/CpuDevice.lean ====
section
/-! DEFINITION. The I/O instructions to the CPU pseudo-device, code 0o77 (43_cpu_device.md): the data operation first,
then the control field (R211). -/

namespace Sys2Proof.Machine

/-- NIO CPU (R200): INTEN with F = S, INTDS with F = C. -/
def execNioCpu (_ac : Ac) (f : Ctl) (s : State) : Result := .next (s.cpuControl f)

/-- READS (R201). -/
def execReads (ac : Ac) (f : Ctl) (s : State) : Result := .next ((s.setAc ac s.sr).cpuControl f)

/-- DOA to CPU (R204): no data operation. -/
def execDoaCpu (_ac : Ac) (f : Ctl) (s : State) : Result := .next (s.cpuControl f)

/-- INTA (R202): the lowest code among the honoured requests, or 0. -/
def execInta (ac : Ac) (f : Ctl) (s : State) : Result :=
  .next ((s.setAc ac (lowestCode s.honoured)).cpuControl f)

/-- MSKO (R203): the whole of DIS is replaced. A device table with a priority collision is refused (R328). -/
def execMsko (ac : Ac) (f : Ctl) (s : State) : Result :=
  if prioritiesDistinct s.devices then
    .next (State.cpuControl { s with dis := maskSet s.cfg (s.ac ac) s.devices } f)
  else .refused .priorityCollision

/-- IORST (R205): the reset, then F, so that F = S ends with ION-pending set. -/
def execIorst (_ac : Ac) (f : Ctl) (s : State) : Result := .next (s.resetIo.cpuControl f)

/-- HALT (R206): F is applied, the core stops, the halt signal is published. -/
def execHalt (_ac : Ac) (f : Ctl) (s : State) : Result := .next (s.cpuControl f).haltRun

/-- SKPBN CPU (R209): skip if ION = 1. -/
def execSkpbnCpu (_ac : Ac) (s : State) : Result := .next (s.skipIf s.ion)

/-- SKPBZ CPU (R209): skip if ION = 0. -/
def execSkpbzCpu (_ac : Ac) (s : State) : Result := .next (s.skipIf (!s.ion))

/-- SKPDN CPU (R209): never skips. -/
def execSkpdnCpu (_ac : Ac) (s : State) : Result := .next s

/-- SKPDZ CPU (R209): always skips. -/
def execSkpdzCpu (_ac : Ac) (s : State) : Result := .next (s.skipIf true)

end Sys2Proof.Machine
end

