-- ==== Sys2Proof/Machine/Io.lean ====
section
/-! DEFINITION. The I/O transfer instructions to controllers and absent devices (42_io.md). -/

namespace Sys2Proof.Machine

/-- NIO (R177): control only; the accumulator takes a free value (R174). -/
def execNio (ac : Ac) (f : Ctl) (d : DevCode) (s : State) : Result := .next (s.ioInput inputNone ac f d)

/-- DIA (R178). -/
def execDia (ac : Ac) (f : Ctl) (d : DevCode) (s : State) : Result := .next (s.ioInput inputA ac f d)

/-- DOA (R179). -/
def execDoa (ac : Ac) (f : Ctl) (d : DevCode) (s : State) : Result := .next (s.ioOutputA ac f d)

/-- DIB (R180): no kind has an input register B. -/
def execDib (ac : Ac) (f : Ctl) (d : DevCode) (s : State) : Result := .next (s.ioInput inputNone ac f d)

/-- DOB (R181): the data is discarded. -/
def execDob (_ac : Ac) (f : Ctl) (d : DevCode) (s : State) : Result := .next (s.ioOutputNone f d)

/-- DIC (R182): no kind has an input register C. -/
def execDic (ac : Ac) (f : Ctl) (d : DevCode) (s : State) : Result := .next (s.ioInput inputNone ac f d)

/-- DOC (R183): the data is discarded. -/
def execDoc (_ac : Ac) (f : Ctl) (d : DevCode) (s : State) : Result := .next (s.ioOutputNone f d)

/-- SKP (R185; absent device R184). The AC field is ignored. -/
def execSkp (_ac : Ac) (t : IoTest) (d : DevCode) (s : State) : Result := .next (s.skipIf (s.ioTest t d))

end Sys2Proof.Machine
end

