-- ==== Sys2Proof/Machine/Mdv.lean ====
section
/-! DEFINITION. The multiply/divide pseudo-device, code 0o01 when MDV_PRESENT (44_mdv.md). The decoder gives these
instructions only when the unit is present (R79; log entry 25). -/

namespace Sys2Proof.Machine

/-- MUL (R232): AC0:AC1 <- AC1 * AC2 + AC0, unsigned; at most 0xFFFF0000, so 32 bits hold it. -/
def execMul (s : State) : Result :=
  let p := (s.ac .ac1).toNat * (s.ac .ac2).toNat + (s.ac .ac0).toNat
  .next ((s.setAc .ac0 (BitVec.ofNat 16 (p / 65536))).setAc .ac1 (BitVec.ofNat 16 p))

/-- DIV (R233): AC0 >= AC2 is overflow and sets C alone; else quotient to AC1, remainder to AC0, C cleared. -/
def execDiv (s : State) : Result :=
  if (s.ac .ac2).toNat ≤ (s.ac .ac0).toNat then .next { s with carry := true }
  else
    let n := (s.ac .ac0).toNat * 65536 + (s.ac .ac1).toNat
    let t := (s.setAc .ac1 (BitVec.ofNat 16 (n / (s.ac .ac2).toNat))).setAc .ac0
      (BitVec.ofNat 16 (n % (s.ac .ac2).toNat))
    .next { t with carry := false }

/-- DOCS and DOCP with an accumulator field other than 2: refused (R234). -/
def execDocMdv (_ac : Ac) (_pulse : Bool) (_s : State) : Result := .refused .mdvAccumulatorField

/-- SKP MDV (R235): never Busy, never Done. -/
def execSkpMdv (_ac : Ac) (t : IoTest) (s : State) : Result := .next (s.skipIf (testIdle t))

/-- Every other word to MDV: no operation (R236). -/
def execOtherMdv (_ac : Ac) (_op : IoOp) (_f : Ctl) (s : State) : Result := .next s

end Sys2Proof.Machine
end

