-- ==== Sys2Proof/Machine/MemRef.lean ====
section
/-! DEFINITION. The memory-reference instructions (41_memref.md section 2). -/

namespace Sys2Proof.Machine

/-- JMP (R149). -/
def execJmp (m : EaFields) (s : State) : Result := s.atAddress m fun e t => t.setPc e

/-- JSR (R150): the address is computed before AC3 is written. -/
def execJsr (m : EaFields) (s : State) : Result :=
  s.atAddress m fun e t => (t.setAc .ac3 (zext t.pc)).setPc e

/-- ISZ (R151). -/
def execIsz (m : EaFields) (s : State) : Result :=
  s.atAddress m fun e t => (t.write e (t.read e + 1)).skipIf (t.read e + 1 == 0)

/-- DSZ (R152). -/
def execDsz (m : EaFields) (s : State) : Result :=
  s.atAddress m fun e t => (t.write e (t.read e - 1)).skipIf (t.read e - 1 == 0)

/-- LDA (R153). -/
def execLda (ac : Ac) (m : EaFields) (s : State) : Result :=
  s.atAddress m fun e t => t.setAc ac (t.read e)

/-- STA (R154). -/
def execSta (ac : Ac) (m : EaFields) (s : State) : Result :=
  s.atAddress m fun e t => t.write e (t.ac ac)

end Sys2Proof.Machine
end

