-- ==== Sys2Proof/Machine/Dispatch.lean ====
section
/-! DEFINITION. The dispatch: one arm per constructor of `Instr`, each one direct call of its meaning. In the state an
instruction is given, PC already holds the instruction's address plus one (R21, R252). -/

namespace Sys2Proof.Machine

def exec (i : Instr) (s : State) : Host.Outcome State Fault Refusal :=
  match i with
  | .com a => Sys2Proof.Machine.execCom a s
  | .neg a => Sys2Proof.Machine.execNeg a s
  | .mov a => Sys2Proof.Machine.execMov a s
  | .inc a => Sys2Proof.Machine.execInc a s
  | .adc a => Sys2Proof.Machine.execAdc a s
  | .sub a => Sys2Proof.Machine.execSub a s
  | .add a => Sys2Proof.Machine.execAdd a s
  | .and a => Sys2Proof.Machine.execAnd a s
  | .jmp m => Sys2Proof.Machine.execJmp m s
  | .jsr m => Sys2Proof.Machine.execJsr m s
  | .isz m => Sys2Proof.Machine.execIsz m s
  | .dsz m => Sys2Proof.Machine.execDsz m s
  | .lda ac m => Sys2Proof.Machine.execLda ac m s
  | .sta ac m => Sys2Proof.Machine.execSta ac m s
  | .mul => Sys2Proof.Machine.execMul s
  | .div => Sys2Proof.Machine.execDiv s
  | .docMdv ac pulse => Sys2Proof.Machine.execDocMdv ac pulse s
  | .skpMdv ac t => Sys2Proof.Machine.execSkpMdv ac t s
  | .otherMdv ac op f => Sys2Proof.Machine.execOtherMdv ac op f s
  | .nioCpu ac f => Sys2Proof.Machine.execNioCpu ac f s
  | .reads ac f => Sys2Proof.Machine.execReads ac f s
  | .doaCpu ac f => Sys2Proof.Machine.execDoaCpu ac f s
  | .inta ac f => Sys2Proof.Machine.execInta ac f s
  | .msko ac f => Sys2Proof.Machine.execMsko ac f s
  | .iorst ac f => Sys2Proof.Machine.execIorst ac f s
  | .halt ac f => Sys2Proof.Machine.execHalt ac f s
  | .skpbnCpu ac => Sys2Proof.Machine.execSkpbnCpu ac s
  | .skpbzCpu ac => Sys2Proof.Machine.execSkpbzCpu ac s
  | .skpdnCpu ac => Sys2Proof.Machine.execSkpdnCpu ac s
  | .skpdzCpu ac => Sys2Proof.Machine.execSkpdzCpu ac s
  | .nio ac f d => Sys2Proof.Machine.execNio ac f d s
  | .dia ac f d => Sys2Proof.Machine.execDia ac f d s
  | .doa ac f d => Sys2Proof.Machine.execDoa ac f d s
  | .dib ac f d => Sys2Proof.Machine.execDib ac f d s
  | .dob ac f d => Sys2Proof.Machine.execDob ac f d s
  | .dic ac f d => Sys2Proof.Machine.execDic ac f d s
  | .doc ac f d => Sys2Proof.Machine.execDoc ac f d s
  | .skp ac t d => Sys2Proof.Machine.execSkp ac t d s

end Sys2Proof.Machine
end

