-- ==== Sys2Proof/Machine/Cycle.lean ====
section
/-! DEFINITION. The instruction step of R250 (60_exceptions.md): promotion, fetch, execution, the completions that fall
before the check, the interrupt check. -/

namespace Sys2Proof.Machine

/-- The word at PC (R252). -/
def State.fetchWord (s : State) : Word := s.read s.pc

/-- The instruction at PC, the MDV rows in the table only when the unit is present (R79). Fetch cannot fail: every
address holds a word and every word is an instruction (R252, R85). -/
def State.fetched (s : State) : Instr := decode s.cfg.mdvPresent s.fetchWord

/-- Promotion of ION-pending and the fetch increment: the state an instruction executes in (R250 steps 1 and 2). -/
def State.begun (s : State) : State := State.skipIf s.promote true

/-- The end of a step (R250 steps 3 to 5): an instruction that stopped the core (a HALT, R206, or an IndirectLoop) ends the
step there; after any other come the completions and the interrupt check. -/
def State.finish (t : State) (mid : List Completion) : Result :=
  match t.run with
  | .running => (t.ticks mid).interruptCheck
  | .stopped => .next t

/-- What follows the execute phase: the end of the step, or the fault or refusal of the instruction. -/
def finishResult (r : Result) (mid : List Completion) : Result :=
  match r with
  | .next t => t.finish mid
  | .fault e => .fault e
  | .refused e => .refused e

/-- One instruction step (R250) with the completions `mid` between its execute phase and its check (R281). -/
def State.instrStep (s : State) (mid : List Completion) : Result :=
  finishResult (exec s.fetched s.begun) mid

/-- The core's turn: an instruction step while running; while stopped no instruction executes and no interrupt is taken
(R27, R260). -/
def State.coreTurn (s : State) (mid : List Completion) : Result :=
  match s.run with
  | .running => s.instrStep mid
  | .stopped => .next s

end Sys2Proof.Machine
end

