-- ==== Sys2Proof/Machine/Console.lean ====
section
/-! DEFINITION. The console operations (70_reset_and_hazards.md section 2), each at an instruction boundary (R283).
Addresses are masked to 15 bits (R314, D25). -/

namespace Sys2Proof.Machine

/-- Answer the console. -/
def State.answer (s : State) (r : Reply) : State := { s with reply := r }

/-- What the host is told at the end of a run or of a single step (R320): the error report while FAULT is IndirectLoop,
else the reply `r` (log entry 37). -/
def State.endReport (s : State) (r : Reply) : Reply :=
  match s.latch with
  | .none => r
  | .indirectLoop => .indirectLoop

/-- Stop (R306): accepted in both run states. -/
def State.conStop (s : State) : State := State.answer { s with run := .stopped } (.pc s.pc)

/-- Reset (R303): accepted in both run states. C becomes a free value (90_conflicts.md C4). -/
def State.conReset (s : State) : State :=
  State.answer { s.resetIo.countDraw with run := .stopped, latch := .none, carry := s.drawnBit } (.pc s.pc)

/-- Switches (R315): accepted in both run states. -/
def State.conSwitches (s : State) (d : Word) : State := State.answer { s with sr := d } .ack

/-- Start (R308). -/
def State.conStart (s : State) (a : Word) : State := State.answer ((s.setPc (maskAddr a)).beginRun) .ack

/-- Continue (R307). -/
def State.conContinue (s : State) : State := State.answer s.beginRun .ack

/-- Deposit (R310): PC is left at the deposited address. -/
def State.conDeposit (s : State) (a d : Word) : State :=
  State.answer ((s.setPc (maskAddr a)).write (maskAddr a) d) .ack

/-- DepositNext (R311). -/
def State.conDepositNext (s : State) (d : Word) : State :=
  State.answer ((s.setPc (s.pc + 1)).write (s.pc + 1) d) .ack

/-- Examine (R312): the read has no side effect. -/
def State.conExamine (s : State) (a : Word) : State :=
  State.answer (s.setPc (maskAddr a)) (.word (s.read (maskAddr a)))

/-- ExamineNext (R313). -/
def State.conExamineNext (s : State) : State := State.answer (s.setPc (s.pc + 1)) (.word (s.read (s.pc + 1)))

/-- LoadMemory (R316): PC is not changed. -/
def State.conLoadMemory (s : State) (a : Word) (words : List Word) : State :=
  State.answer { s with mem := s.mem.writeWords (maskAddr a) words } .ack

/-- ProgramLoad (R317): the blob at 0..0o37, PC 0, running. Without a blob it is refused (D24). -/
def State.conProgramLoad (s : State) : Result :=
  match s.cfg.bootBlob with
  | none => .refused .bootBlobAbsent
  | some blob =>
    .next (State.answer (State.beginRun { s with mem := s.mem.writeWords 0 blob.toList, pc := 0 }) .ack)

/-- InstStep (R309): one instruction step of R250, after which the core is stopped; the reply is PC and whether the
instruction was HALT, or the error report where the step ended in IndirectLoop (R320). -/
def State.conInstStep (s : State) (mid : List Completion) : Result :=
  match s.beginRun.instrStep mid with
  | .next t => .next (State.answer { t with run := .stopped } (t.endReport (.stepped t.pc t.haltSignal)))
  | .fault e => .fault e
  | .refused e => .refused e

/-- Attach a stream to the device at `d` (R279, R318): only a reader or a writer has one. -/
def State.conAttach (s : State) (d : DevCode) : State :=
  match s.dev d with
  | none => s.answer .error
  | some c =>
    match c.unit with
    | .reader _ _ => (s.mapUnit d DevUnit.attach).answer .ack
    | .writer _ _ _ => (s.mapUnit d DevUnit.attach).answer .ack
    | .rtc _ => s.answer .error

/-- Status and IsRunning (R318). -/
def State.conStatus (s : State) : State := s.answer (.runState s.run)

/-- WaitForHalt (R318, R320): it consumes the halt signal and replies PC; without one it replies the error report of a run
that ended in IndirectLoop, or that it found no halt. -/
def State.conWaitForHalt (s : State) : State :=
  if s.haltSignal then State.answer { s with haltSignal := false } (.pc s.pc) else s.answer (s.endReport .timeout)

/-- A request that is served only while stopped: while running the reply is Running and nothing changes (R319). -/
def State.whenStopped (s : State) (r : Result) : Result :=
  match s.run with
  | .stopped => r
  | .running => .next (s.answer .running)

/-- One console request. -/
def State.console (s : State) (op : ConsoleOp) : Result :=
  match op with
  | .start a => s.whenStopped (.next (s.conStart a))
  | .resume => s.whenStopped (.next s.conContinue)
  | .stop => .next s.conStop
  | .reset => .next s.conReset
  | .instStep mid => s.whenStopped (s.conInstStep mid)
  | .deposit a d => s.whenStopped (.next (s.conDeposit a d))
  | .depositNext d => s.whenStopped (.next (s.conDepositNext d))
  | .examine a => s.whenStopped (.next (s.conExamine a))
  | .examineNext => s.whenStopped (.next s.conExamineNext)
  | .switches d => .next (s.conSwitches d)
  | .loadMemory a words => s.whenStopped (.next (s.conLoadMemory a words))
  | .programLoad => s.whenStopped s.conProgramLoad
  | .attach d => s.whenStopped (.next (s.conAttach d))
  | .status => .next s.conStatus
  | .waitForHalt => .next s.conWaitForHalt

/-- One turn of one agent (R11). -/
def State.takeTurn (s : State) (turn : Turn) : Result :=
  match turn with
  | .core mid => s.coreTurn mid
  | .device c => .next (s.tick c)
  | .console op => s.console op

end Sys2Proof.Machine
end

