-- ==== Sys2Proof/Machine/Step.lean ====
section
/-! DEFINITION. One step of the machine: the turn of the agent that the agenda names (R11, R281, R283). -/

namespace Sys2Proof.Machine

/-- One step. The agenda's first turn is taken off it and made; an empty agenda is the core's turn with no completion. -/
def step (s : State) : Host.Outcome State Fault Refusal :=
  match s.agenda with
  | [] => s.coreTurn []
  | turn :: rest => State.takeTurn { s with agenda := rest } turn

/-- `s` with the opcode-table word `w` placed at PC and the core running with no other agent's turn before it, as LoadMemory
and Start leave it (log entry 39): the next step fetches and runs that instruction. -/
def State.withFetchWord (s : State) (nbits w : Nat) : State :=
  { s with mem := s.mem.writeWord s.pc (tableWord nbits w), run := .running, agenda := [] }

end Sys2Proof.Machine
end

