-- ==== Sys2Proof/Laws/State.lean ====
section
/-! SUPPORT. One lemma per field per update of the state, each true by definition, so that no proof unfolds a record
update. -/

namespace Sys2Proof.Machine

variable (s : State)

@[simp] theorem State.setAc_acs (i : Ac) (v : Word) : (s.setAc i v).acs = s.acs.set i v := rfl
@[simp] theorem State.setAc_pc (i : Ac) (v : Word) : (s.setAc i v).pc = s.pc := rfl
@[simp] theorem State.setAc_carry (i : Ac) (v : Word) : (s.setAc i v).carry = s.carry := rfl
@[simp] theorem State.setAc_ion (i : Ac) (v : Word) : (s.setAc i v).ion = s.ion := rfl
@[simp] theorem State.setAc_ionp (i : Ac) (v : Word) : (s.setAc i v).ionp = s.ionp := rfl
@[simp] theorem State.setAc_sr (i : Ac) (v : Word) : (s.setAc i v).sr = s.sr := rfl
@[simp] theorem State.setAc_run (i : Ac) (v : Word) : (s.setAc i v).run = s.run := rfl
@[simp] theorem State.setAc_latch (i : Ac) (v : Word) : (s.setAc i v).latch = s.latch := rfl
@[simp] theorem State.setAc_mem (i : Ac) (v : Word) : (s.setAc i v).mem = s.mem := rfl
@[simp] theorem State.setAc_req (i : Ac) (v : Word) : (s.setAc i v).req = s.req := rfl
@[simp] theorem State.setAc_dis (i : Ac) (v : Word) : (s.setAc i v).dis = s.dis := rfl
@[simp] theorem State.setAc_devices (i : Ac) (v : Word) : (s.setAc i v).devices = s.devices := rfl
@[simp] theorem State.setAc_haltSignal (i : Ac) (v : Word) : (s.setAc i v).haltSignal = s.haltSignal := rfl
@[simp] theorem State.setAc_reply (i : Ac) (v : Word) : (s.setAc i v).reply = s.reply := rfl
@[simp] theorem State.setAc_cfg (i : Ac) (v : Word) : (s.setAc i v).cfg = s.cfg := rfl
@[simp] theorem State.setAc_agenda (i : Ac) (v : Word) : (s.setAc i v).agenda = s.agenda := rfl
@[simp] theorem State.setAc_draws (i : Ac) (v : Word) : (s.setAc i v).draws = s.draws := rfl

@[simp] theorem State.setPc_acs (a : Addr) : (s.setPc a).acs = s.acs := rfl
@[simp] theorem State.setPc_pc (a : Addr) : (s.setPc a).pc = a := rfl
@[simp] theorem State.setPc_carry (a : Addr) : (s.setPc a).carry = s.carry := rfl
@[simp] theorem State.setPc_ion (a : Addr) : (s.setPc a).ion = s.ion := rfl
@[simp] theorem State.setPc_ionp (a : Addr) : (s.setPc a).ionp = s.ionp := rfl
@[simp] theorem State.setPc_sr (a : Addr) : (s.setPc a).sr = s.sr := rfl
@[simp] theorem State.setPc_run (a : Addr) : (s.setPc a).run = s.run := rfl
@[simp] theorem State.setPc_latch (a : Addr) : (s.setPc a).latch = s.latch := rfl
@[simp] theorem State.setPc_mem (a : Addr) : (s.setPc a).mem = s.mem := rfl
@[simp] theorem State.setPc_req (a : Addr) : (s.setPc a).req = s.req := rfl
@[simp] theorem State.setPc_dis (a : Addr) : (s.setPc a).dis = s.dis := rfl
@[simp] theorem State.setPc_devices (a : Addr) : (s.setPc a).devices = s.devices := rfl
@[simp] theorem State.setPc_haltSignal (a : Addr) : (s.setPc a).haltSignal = s.haltSignal := rfl
@[simp] theorem State.setPc_reply (a : Addr) : (s.setPc a).reply = s.reply := rfl
@[simp] theorem State.setPc_cfg (a : Addr) : (s.setPc a).cfg = s.cfg := rfl
@[simp] theorem State.setPc_agenda (a : Addr) : (s.setPc a).agenda = s.agenda := rfl
@[simp] theorem State.setPc_draws (a : Addr) : (s.setPc a).draws = s.draws := rfl

@[simp] theorem State.skipIf_acs (b : Bool) : (s.skipIf b).acs = s.acs := rfl
@[simp] theorem State.skipIf_pc (b : Bool) : (s.skipIf b).pc = if b then s.pc + 1 else s.pc := rfl
@[simp] theorem State.skipIf_carry (b : Bool) : (s.skipIf b).carry = s.carry := rfl
@[simp] theorem State.skipIf_ion (b : Bool) : (s.skipIf b).ion = s.ion := rfl
@[simp] theorem State.skipIf_ionp (b : Bool) : (s.skipIf b).ionp = s.ionp := rfl
@[simp] theorem State.skipIf_sr (b : Bool) : (s.skipIf b).sr = s.sr := rfl
@[simp] theorem State.skipIf_run (b : Bool) : (s.skipIf b).run = s.run := rfl
@[simp] theorem State.skipIf_latch (b : Bool) : (s.skipIf b).latch = s.latch := rfl
@[simp] theorem State.skipIf_mem (b : Bool) : (s.skipIf b).mem = s.mem := rfl
@[simp] theorem State.skipIf_req (b : Bool) : (s.skipIf b).req = s.req := rfl
@[simp] theorem State.skipIf_dis (b : Bool) : (s.skipIf b).dis = s.dis := rfl
@[simp] theorem State.skipIf_devices (b : Bool) : (s.skipIf b).devices = s.devices := rfl
@[simp] theorem State.skipIf_haltSignal (b : Bool) : (s.skipIf b).haltSignal = s.haltSignal := rfl
@[simp] theorem State.skipIf_reply (b : Bool) : (s.skipIf b).reply = s.reply := rfl
@[simp] theorem State.skipIf_cfg (b : Bool) : (s.skipIf b).cfg = s.cfg := rfl
@[simp] theorem State.skipIf_agenda (b : Bool) : (s.skipIf b).agenda = s.agenda := rfl
@[simp] theorem State.skipIf_draws (b : Bool) : (s.skipIf b).draws = s.draws := rfl

@[simp] theorem State.write_acs (a : Addr) (v : Word) : (s.write a v).acs = s.acs := rfl
@[simp] theorem State.write_pc (a : Addr) (v : Word) : (s.write a v).pc = s.pc := rfl
@[simp] theorem State.write_carry (a : Addr) (v : Word) : (s.write a v).carry = s.carry := rfl
@[simp] theorem State.write_ion (a : Addr) (v : Word) : (s.write a v).ion = s.ion := rfl
@[simp] theorem State.write_ionp (a : Addr) (v : Word) : (s.write a v).ionp = s.ionp := rfl
@[simp] theorem State.write_sr (a : Addr) (v : Word) : (s.write a v).sr = s.sr := rfl
@[simp] theorem State.write_run (a : Addr) (v : Word) : (s.write a v).run = s.run := rfl
@[simp] theorem State.write_latch (a : Addr) (v : Word) : (s.write a v).latch = s.latch := rfl
@[simp] theorem State.write_mem (a : Addr) (v : Word) : (s.write a v).mem = s.mem.writeWord a v := rfl
@[simp] theorem State.write_req (a : Addr) (v : Word) : (s.write a v).req = s.req := rfl
@[simp] theorem State.write_dis (a : Addr) (v : Word) : (s.write a v).dis = s.dis := rfl
@[simp] theorem State.write_devices (a : Addr) (v : Word) : (s.write a v).devices = s.devices := rfl
@[simp] theorem State.write_haltSignal (a : Addr) (v : Word) : (s.write a v).haltSignal = s.haltSignal := rfl
@[simp] theorem State.write_reply (a : Addr) (v : Word) : (s.write a v).reply = s.reply := rfl
@[simp] theorem State.write_cfg (a : Addr) (v : Word) : (s.write a v).cfg = s.cfg := rfl
@[simp] theorem State.write_agenda (a : Addr) (v : Word) : (s.write a v).agenda = s.agenda := rfl
@[simp] theorem State.write_draws (a : Addr) (v : Word) : (s.write a v).draws = s.draws := rfl

@[simp] theorem State.countDraw_acs : (s.countDraw).acs = s.acs := rfl
@[simp] theorem State.countDraw_pc : (s.countDraw).pc = s.pc := rfl
@[simp] theorem State.countDraw_carry : (s.countDraw).carry = s.carry := rfl
@[simp] theorem State.countDraw_ion : (s.countDraw).ion = s.ion := rfl
@[simp] theorem State.countDraw_ionp : (s.countDraw).ionp = s.ionp := rfl
@[simp] theorem State.countDraw_sr : (s.countDraw).sr = s.sr := rfl
@[simp] theorem State.countDraw_run : (s.countDraw).run = s.run := rfl
@[simp] theorem State.countDraw_latch : (s.countDraw).latch = s.latch := rfl
@[simp] theorem State.countDraw_mem : (s.countDraw).mem = s.mem := rfl
@[simp] theorem State.countDraw_req : (s.countDraw).req = s.req := rfl
@[simp] theorem State.countDraw_dis : (s.countDraw).dis = s.dis := rfl
@[simp] theorem State.countDraw_devices : (s.countDraw).devices = s.devices := rfl
@[simp] theorem State.countDraw_haltSignal : (s.countDraw).haltSignal = s.haltSignal := rfl
@[simp] theorem State.countDraw_reply : (s.countDraw).reply = s.reply := rfl
@[simp] theorem State.countDraw_cfg : (s.countDraw).cfg = s.cfg := rfl
@[simp] theorem State.countDraw_agenda : (s.countDraw).agenda = s.agenda := rfl
@[simp] theorem State.countDraw_draws : (s.countDraw).draws = s.draws + 1 := rfl

@[simp] theorem State.loadAlc_acs (nl : Bool) (i : Ac) (r : Word) (cc : Bool) : (s.loadAlc nl i r cc).acs = if nl then s.acs else s.acs.set i r := rfl
@[simp] theorem State.loadAlc_pc (nl : Bool) (i : Ac) (r : Word) (cc : Bool) : (s.loadAlc nl i r cc).pc = s.pc := rfl
@[simp] theorem State.loadAlc_carry (nl : Bool) (i : Ac) (r : Word) (cc : Bool) : (s.loadAlc nl i r cc).carry = if nl then s.carry else cc := rfl
@[simp] theorem State.loadAlc_ion (nl : Bool) (i : Ac) (r : Word) (cc : Bool) : (s.loadAlc nl i r cc).ion = s.ion := rfl
@[simp] theorem State.loadAlc_ionp (nl : Bool) (i : Ac) (r : Word) (cc : Bool) : (s.loadAlc nl i r cc).ionp = s.ionp := rfl
@[simp] theorem State.loadAlc_sr (nl : Bool) (i : Ac) (r : Word) (cc : Bool) : (s.loadAlc nl i r cc).sr = s.sr := rfl
@[simp] theorem State.loadAlc_run (nl : Bool) (i : Ac) (r : Word) (cc : Bool) : (s.loadAlc nl i r cc).run = s.run := rfl
@[simp] theorem State.loadAlc_latch (nl : Bool) (i : Ac) (r : Word) (cc : Bool) : (s.loadAlc nl i r cc).latch = s.latch := rfl
@[simp] theorem State.loadAlc_mem (nl : Bool) (i : Ac) (r : Word) (cc : Bool) : (s.loadAlc nl i r cc).mem = s.mem := rfl
@[simp] theorem State.loadAlc_req (nl : Bool) (i : Ac) (r : Word) (cc : Bool) : (s.loadAlc nl i r cc).req = s.req := rfl
@[simp] theorem State.loadAlc_dis (nl : Bool) (i : Ac) (r : Word) (cc : Bool) : (s.loadAlc nl i r cc).dis = s.dis := rfl
@[simp] theorem State.loadAlc_devices (nl : Bool) (i : Ac) (r : Word) (cc : Bool) : (s.loadAlc nl i r cc).devices = s.devices := rfl
@[simp] theorem State.loadAlc_haltSignal (nl : Bool) (i : Ac) (r : Word) (cc : Bool) : (s.loadAlc nl i r cc).haltSignal = s.haltSignal := rfl
@[simp] theorem State.loadAlc_reply (nl : Bool) (i : Ac) (r : Word) (cc : Bool) : (s.loadAlc nl i r cc).reply = s.reply := rfl
@[simp] theorem State.loadAlc_cfg (nl : Bool) (i : Ac) (r : Word) (cc : Bool) : (s.loadAlc nl i r cc).cfg = s.cfg := rfl
@[simp] theorem State.loadAlc_agenda (nl : Bool) (i : Ac) (r : Word) (cc : Bool) : (s.loadAlc nl i r cc).agenda = s.agenda := rfl
@[simp] theorem State.loadAlc_draws (nl : Bool) (i : Ac) (r : Word) (cc : Bool) : (s.loadAlc nl i r cc).draws = s.draws := rfl

@[simp] theorem State.promote_acs : (s.promote).acs = s.acs := rfl
@[simp] theorem State.promote_pc : (s.promote).pc = s.pc := rfl
@[simp] theorem State.promote_carry : (s.promote).carry = s.carry := rfl
@[simp] theorem State.promote_ion : (s.promote).ion = (s.ion || s.ionp) := rfl
@[simp] theorem State.promote_ionp : (s.promote).ionp = false := rfl
@[simp] theorem State.promote_sr : (s.promote).sr = s.sr := rfl
@[simp] theorem State.promote_run : (s.promote).run = s.run := rfl
@[simp] theorem State.promote_latch : (s.promote).latch = s.latch := rfl
@[simp] theorem State.promote_mem : (s.promote).mem = s.mem := rfl
@[simp] theorem State.promote_req : (s.promote).req = s.req := rfl
@[simp] theorem State.promote_dis : (s.promote).dis = s.dis := rfl
@[simp] theorem State.promote_devices : (s.promote).devices = s.devices := rfl
@[simp] theorem State.promote_haltSignal : (s.promote).haltSignal = s.haltSignal := rfl
@[simp] theorem State.promote_reply : (s.promote).reply = s.reply := rfl
@[simp] theorem State.promote_cfg : (s.promote).cfg = s.cfg := rfl
@[simp] theorem State.promote_agenda : (s.promote).agenda = s.agenda := rfl
@[simp] theorem State.promote_draws : (s.promote).draws = s.draws := rfl

@[simp] theorem State.begun_acs : (s.begun).acs = s.acs := rfl
@[simp] theorem State.begun_pc : (s.begun).pc = s.pc + 1 := rfl
@[simp] theorem State.begun_carry : (s.begun).carry = s.carry := rfl
@[simp] theorem State.begun_ion : (s.begun).ion = (s.ion || s.ionp) := rfl
@[simp] theorem State.begun_ionp : (s.begun).ionp = false := rfl
@[simp] theorem State.begun_sr : (s.begun).sr = s.sr := rfl
@[simp] theorem State.begun_run : (s.begun).run = s.run := rfl
@[simp] theorem State.begun_latch : (s.begun).latch = s.latch := rfl
@[simp] theorem State.begun_mem : (s.begun).mem = s.mem := rfl
@[simp] theorem State.begun_req : (s.begun).req = s.req := rfl
@[simp] theorem State.begun_dis : (s.begun).dis = s.dis := rfl
@[simp] theorem State.begun_devices : (s.begun).devices = s.devices := rfl
@[simp] theorem State.begun_haltSignal : (s.begun).haltSignal = s.haltSignal := rfl
@[simp] theorem State.begun_reply : (s.begun).reply = s.reply := rfl
@[simp] theorem State.begun_cfg : (s.begun).cfg = s.cfg := rfl
@[simp] theorem State.begun_agenda : (s.begun).agenda = s.agenda := rfl
@[simp] theorem State.begun_draws : (s.begun).draws = s.draws := rfl

@[simp] theorem State.setReq_acs (d : DevCode) : (s.setReq d).acs = s.acs := rfl
@[simp] theorem State.setReq_pc (d : DevCode) : (s.setReq d).pc = s.pc := rfl
@[simp] theorem State.setReq_carry (d : DevCode) : (s.setReq d).carry = s.carry := rfl
@[simp] theorem State.setReq_ion (d : DevCode) : (s.setReq d).ion = s.ion := rfl
@[simp] theorem State.setReq_ionp (d : DevCode) : (s.setReq d).ionp = s.ionp := rfl
@[simp] theorem State.setReq_sr (d : DevCode) : (s.setReq d).sr = s.sr := rfl
@[simp] theorem State.setReq_run (d : DevCode) : (s.setReq d).run = s.run := rfl
@[simp] theorem State.setReq_latch (d : DevCode) : (s.setReq d).latch = s.latch := rfl
@[simp] theorem State.setReq_mem (d : DevCode) : (s.setReq d).mem = s.mem := rfl
@[simp] theorem State.setReq_req (d : DevCode) : (s.setReq d).req = s.req ||| devBit d := rfl
@[simp] theorem State.setReq_dis (d : DevCode) : (s.setReq d).dis = s.dis := rfl
@[simp] theorem State.setReq_devices (d : DevCode) : (s.setReq d).devices = s.devices := rfl
@[simp] theorem State.setReq_haltSignal (d : DevCode) : (s.setReq d).haltSignal = s.haltSignal := rfl
@[simp] theorem State.setReq_reply (d : DevCode) : (s.setReq d).reply = s.reply := rfl
@[simp] theorem State.setReq_cfg (d : DevCode) : (s.setReq d).cfg = s.cfg := rfl
@[simp] theorem State.setReq_agenda (d : DevCode) : (s.setReq d).agenda = s.agenda := rfl
@[simp] theorem State.setReq_draws (d : DevCode) : (s.setReq d).draws = s.draws := rfl

@[simp] theorem State.clearReq_acs (d : DevCode) : (s.clearReq d).acs = s.acs := rfl
@[simp] theorem State.clearReq_pc (d : DevCode) : (s.clearReq d).pc = s.pc := rfl
@[simp] theorem State.clearReq_carry (d : DevCode) : (s.clearReq d).carry = s.carry := rfl
@[simp] theorem State.clearReq_ion (d : DevCode) : (s.clearReq d).ion = s.ion := rfl
@[simp] theorem State.clearReq_ionp (d : DevCode) : (s.clearReq d).ionp = s.ionp := rfl
@[simp] theorem State.clearReq_sr (d : DevCode) : (s.clearReq d).sr = s.sr := rfl
@[simp] theorem State.clearReq_run (d : DevCode) : (s.clearReq d).run = s.run := rfl
@[simp] theorem State.clearReq_latch (d : DevCode) : (s.clearReq d).latch = s.latch := rfl
@[simp] theorem State.clearReq_mem (d : DevCode) : (s.clearReq d).mem = s.mem := rfl
@[simp] theorem State.clearReq_req (d : DevCode) : (s.clearReq d).req = s.req &&& ~~~devBit d := rfl
@[simp] theorem State.clearReq_dis (d : DevCode) : (s.clearReq d).dis = s.dis := rfl
@[simp] theorem State.clearReq_devices (d : DevCode) : (s.clearReq d).devices = s.devices := rfl
@[simp] theorem State.clearReq_haltSignal (d : DevCode) : (s.clearReq d).haltSignal = s.haltSignal := rfl
@[simp] theorem State.clearReq_reply (d : DevCode) : (s.clearReq d).reply = s.reply := rfl
@[simp] theorem State.clearReq_cfg (d : DevCode) : (s.clearReq d).cfg = s.cfg := rfl
@[simp] theorem State.clearReq_agenda (d : DevCode) : (s.clearReq d).agenda = s.agenda := rfl
@[simp] theorem State.clearReq_draws (d : DevCode) : (s.clearReq d).draws = s.draws := rfl

@[simp] theorem State.setDevState_acs (d : DevCode) (st : DevState) : (s.setDevState d st).acs = s.acs := rfl
@[simp] theorem State.setDevState_pc (d : DevCode) (st : DevState) : (s.setDevState d st).pc = s.pc := rfl
@[simp] theorem State.setDevState_carry (d : DevCode) (st : DevState) : (s.setDevState d st).carry = s.carry := rfl
@[simp] theorem State.setDevState_ion (d : DevCode) (st : DevState) : (s.setDevState d st).ion = s.ion := rfl
@[simp] theorem State.setDevState_ionp (d : DevCode) (st : DevState) : (s.setDevState d st).ionp = s.ionp := rfl
@[simp] theorem State.setDevState_sr (d : DevCode) (st : DevState) : (s.setDevState d st).sr = s.sr := rfl
@[simp] theorem State.setDevState_run (d : DevCode) (st : DevState) : (s.setDevState d st).run = s.run := rfl
@[simp] theorem State.setDevState_latch (d : DevCode) (st : DevState) : (s.setDevState d st).latch = s.latch := rfl
@[simp] theorem State.setDevState_mem (d : DevCode) (st : DevState) : (s.setDevState d st).mem = s.mem := rfl
@[simp] theorem State.setDevState_req (d : DevCode) (st : DevState) : (s.setDevState d st).req = s.req := rfl
@[simp] theorem State.setDevState_dis (d : DevCode) (st : DevState) : (s.setDevState d st).dis = s.dis := rfl
@[simp] theorem State.setDevState_devices (d : DevCode) (st : DevState) : (s.setDevState d st).devices = updateCode d (fun c => { c with st := st }) s.devices := rfl
@[simp] theorem State.setDevState_haltSignal (d : DevCode) (st : DevState) : (s.setDevState d st).haltSignal = s.haltSignal := rfl
@[simp] theorem State.setDevState_reply (d : DevCode) (st : DevState) : (s.setDevState d st).reply = s.reply := rfl
@[simp] theorem State.setDevState_cfg (d : DevCode) (st : DevState) : (s.setDevState d st).cfg = s.cfg := rfl
@[simp] theorem State.setDevState_agenda (d : DevCode) (st : DevState) : (s.setDevState d st).agenda = s.agenda := rfl
@[simp] theorem State.setDevState_draws (d : DevCode) (st : DevState) : (s.setDevState d st).draws = s.draws := rfl

@[simp] theorem State.mapUnit_acs (d : DevCode) (f : DevUnit → DevUnit) : (s.mapUnit d f).acs = s.acs := rfl
@[simp] theorem State.mapUnit_pc (d : DevCode) (f : DevUnit → DevUnit) : (s.mapUnit d f).pc = s.pc := rfl
@[simp] theorem State.mapUnit_carry (d : DevCode) (f : DevUnit → DevUnit) : (s.mapUnit d f).carry = s.carry := rfl
@[simp] theorem State.mapUnit_ion (d : DevCode) (f : DevUnit → DevUnit) : (s.mapUnit d f).ion = s.ion := rfl
@[simp] theorem State.mapUnit_ionp (d : DevCode) (f : DevUnit → DevUnit) : (s.mapUnit d f).ionp = s.ionp := rfl
@[simp] theorem State.mapUnit_sr (d : DevCode) (f : DevUnit → DevUnit) : (s.mapUnit d f).sr = s.sr := rfl
@[simp] theorem State.mapUnit_run (d : DevCode) (f : DevUnit → DevUnit) : (s.mapUnit d f).run = s.run := rfl
@[simp] theorem State.mapUnit_latch (d : DevCode) (f : DevUnit → DevUnit) : (s.mapUnit d f).latch = s.latch := rfl
@[simp] theorem State.mapUnit_mem (d : DevCode) (f : DevUnit → DevUnit) : (s.mapUnit d f).mem = s.mem := rfl
@[simp] theorem State.mapUnit_req (d : DevCode) (f : DevUnit → DevUnit) : (s.mapUnit d f).req = s.req := rfl
@[simp] theorem State.mapUnit_dis (d : DevCode) (f : DevUnit → DevUnit) : (s.mapUnit d f).dis = s.dis := rfl
@[simp] theorem State.mapUnit_devices (d : DevCode) (f : DevUnit → DevUnit) : (s.mapUnit d f).devices = updateCode d (fun c => { c with unit := f c.unit }) s.devices := rfl
@[simp] theorem State.mapUnit_haltSignal (d : DevCode) (f : DevUnit → DevUnit) : (s.mapUnit d f).haltSignal = s.haltSignal := rfl
@[simp] theorem State.mapUnit_reply (d : DevCode) (f : DevUnit → DevUnit) : (s.mapUnit d f).reply = s.reply := rfl
@[simp] theorem State.mapUnit_cfg (d : DevCode) (f : DevUnit → DevUnit) : (s.mapUnit d f).cfg = s.cfg := rfl
@[simp] theorem State.mapUnit_agenda (d : DevCode) (f : DevUnit → DevUnit) : (s.mapUnit d f).agenda = s.agenda := rfl
@[simp] theorem State.mapUnit_draws (d : DevCode) (f : DevUnit → DevUnit) : (s.mapUnit d f).draws = s.draws := rfl

@[simp] theorem State.resetIo_acs : (s.resetIo).acs = s.acs := rfl
@[simp] theorem State.resetIo_pc : (s.resetIo).pc = s.pc := rfl
@[simp] theorem State.resetIo_carry : (s.resetIo).carry = s.carry := rfl
@[simp] theorem State.resetIo_ion : (s.resetIo).ion = false := rfl
@[simp] theorem State.resetIo_ionp : (s.resetIo).ionp = false := rfl
@[simp] theorem State.resetIo_sr : (s.resetIo).sr = s.sr := rfl
@[simp] theorem State.resetIo_run : (s.resetIo).run = s.run := rfl
@[simp] theorem State.resetIo_latch : (s.resetIo).latch = s.latch := rfl
@[simp] theorem State.resetIo_mem : (s.resetIo).mem = s.mem := rfl
@[simp] theorem State.resetIo_req : (s.resetIo).req = 0 := rfl
@[simp] theorem State.resetIo_dis : (s.resetIo).dis = 0 := rfl
@[simp] theorem State.resetIo_devices : (s.resetIo).devices = resetAll s.devices := rfl
@[simp] theorem State.resetIo_haltSignal : (s.resetIo).haltSignal = s.haltSignal := rfl
@[simp] theorem State.resetIo_reply : (s.resetIo).reply = s.reply := rfl
@[simp] theorem State.resetIo_cfg : (s.resetIo).cfg = s.cfg := rfl
@[simp] theorem State.resetIo_agenda : (s.resetIo).agenda = s.agenda := rfl
@[simp] theorem State.resetIo_draws : (s.resetIo).draws = s.draws := rfl

@[simp] theorem State.beginRun_acs : (s.beginRun).acs = s.acs := rfl
@[simp] theorem State.beginRun_pc : (s.beginRun).pc = s.pc := rfl
@[simp] theorem State.beginRun_carry : (s.beginRun).carry = s.carry := rfl
@[simp] theorem State.beginRun_ion : (s.beginRun).ion = s.ion := rfl
@[simp] theorem State.beginRun_ionp : (s.beginRun).ionp = s.ionp := rfl
@[simp] theorem State.beginRun_sr : (s.beginRun).sr = s.sr := rfl
@[simp] theorem State.beginRun_run : (s.beginRun).run = .running := rfl
@[simp] theorem State.beginRun_latch : (s.beginRun).latch = .none := rfl
@[simp] theorem State.beginRun_mem : (s.beginRun).mem = s.mem := rfl
@[simp] theorem State.beginRun_req : (s.beginRun).req = s.req := rfl
@[simp] theorem State.beginRun_dis : (s.beginRun).dis = s.dis := rfl
@[simp] theorem State.beginRun_devices : (s.beginRun).devices = s.devices := rfl
@[simp] theorem State.beginRun_haltSignal : (s.beginRun).haltSignal = false := rfl
@[simp] theorem State.beginRun_reply : (s.beginRun).reply = s.reply := rfl
@[simp] theorem State.beginRun_cfg : (s.beginRun).cfg = s.cfg := rfl
@[simp] theorem State.beginRun_agenda : (s.beginRun).agenda = s.agenda := rfl
@[simp] theorem State.beginRun_draws : (s.beginRun).draws = s.draws := rfl

@[simp] theorem State.haltRun_acs : (s.haltRun).acs = s.acs := rfl
@[simp] theorem State.haltRun_pc : (s.haltRun).pc = s.pc := rfl
@[simp] theorem State.haltRun_carry : (s.haltRun).carry = s.carry := rfl
@[simp] theorem State.haltRun_ion : (s.haltRun).ion = s.ion := rfl
@[simp] theorem State.haltRun_ionp : (s.haltRun).ionp = s.ionp := rfl
@[simp] theorem State.haltRun_sr : (s.haltRun).sr = s.sr := rfl
@[simp] theorem State.haltRun_run : (s.haltRun).run = .stopped := rfl
@[simp] theorem State.haltRun_latch : (s.haltRun).latch = s.latch := rfl
@[simp] theorem State.haltRun_mem : (s.haltRun).mem = s.mem := rfl
@[simp] theorem State.haltRun_req : (s.haltRun).req = s.req := rfl
@[simp] theorem State.haltRun_dis : (s.haltRun).dis = s.dis := rfl
@[simp] theorem State.haltRun_devices : (s.haltRun).devices = s.devices := rfl
@[simp] theorem State.haltRun_haltSignal : (s.haltRun).haltSignal = true := rfl
@[simp] theorem State.haltRun_reply : (s.haltRun).reply = s.reply := rfl
@[simp] theorem State.haltRun_cfg : (s.haltRun).cfg = s.cfg := rfl
@[simp] theorem State.haltRun_agenda : (s.haltRun).agenda = s.agenda := rfl
@[simp] theorem State.haltRun_draws : (s.haltRun).draws = s.draws := rfl

@[simp] theorem State.answer_acs (r : Reply) : (s.answer r).acs = s.acs := rfl
@[simp] theorem State.answer_pc (r : Reply) : (s.answer r).pc = s.pc := rfl
@[simp] theorem State.answer_carry (r : Reply) : (s.answer r).carry = s.carry := rfl
@[simp] theorem State.answer_ion (r : Reply) : (s.answer r).ion = s.ion := rfl
@[simp] theorem State.answer_ionp (r : Reply) : (s.answer r).ionp = s.ionp := rfl
@[simp] theorem State.answer_sr (r : Reply) : (s.answer r).sr = s.sr := rfl
@[simp] theorem State.answer_run (r : Reply) : (s.answer r).run = s.run := rfl
@[simp] theorem State.answer_latch (r : Reply) : (s.answer r).latch = s.latch := rfl
@[simp] theorem State.answer_mem (r : Reply) : (s.answer r).mem = s.mem := rfl
@[simp] theorem State.answer_req (r : Reply) : (s.answer r).req = s.req := rfl
@[simp] theorem State.answer_dis (r : Reply) : (s.answer r).dis = s.dis := rfl
@[simp] theorem State.answer_devices (r : Reply) : (s.answer r).devices = s.devices := rfl
@[simp] theorem State.answer_haltSignal (r : Reply) : (s.answer r).haltSignal = s.haltSignal := rfl
@[simp] theorem State.answer_reply (r : Reply) : (s.answer r).reply = r := rfl
@[simp] theorem State.answer_cfg (r : Reply) : (s.answer r).cfg = s.cfg := rfl
@[simp] theorem State.answer_agenda (r : Reply) : (s.answer r).agenda = s.agenda := rfl
@[simp] theorem State.answer_draws (r : Reply) : (s.answer r).draws = s.draws := rfl

/-- A register read after a register write (R20: no banks, no aliases). -/
@[simp] theorem Accs.get_set (r : Accs) (i j : Ac) (v : Word) :
    (r.set i v).get j = if i = j then v else r.get j := by
  cases i <;> cases j <;> rfl

@[simp] theorem State.ac_setAc (i j : Ac) (v : Word) :
    (s.setAc i v).ac j = if i = j then v else s.ac j :=
  Accs.get_set s.acs i j v

/-- Registers are told apart by their accumulators alone. -/
theorem Accs.ext_get {r r' : Accs} (h : ∀ i, r.get i = r'.get i) : r = r' := by
  obtain ⟨_, _, _, _⟩ := r
  obtain ⟨_, _, _, _⟩ := r'
  have h0 := h .ac0
  have h1 := h .ac1
  have h2 := h .ac2
  have h3 := h .ac3
  simp only [Accs.get] at h0 h1 h2 h3
  subst h0 h1 h2 h3
  rfl

/-- The control field on device 0o77 changes ION and ION-pending alone (R207, R208, R213). -/
theorem State.cpuControl_eq (f : Ctl) :
    s.cpuControl f = { s with
      ion := if f = .clear then false else s.ion,
      ionp := if f = .clear then false else if f = .start ∧ s.ion = false then true else s.ionp } := by
  cases f <;> cases h : s.ion <;> simp [State.cpuControl, ← h]

/-- Register reads do not see PC. -/
@[simp] theorem State.ac_begun (i : Ac) : s.begun.ac i = s.ac i := rfl

end Sys2Proof.Machine
end

