-- ==== Sys2Proof/Safety.lean ====
section
/-! DEFINITION. What claims about runs are stated in: the invariants of the machine and the well-formed device table. -/

namespace Sys2Proof.Machine

/-- Device codes strictly rising from `lo` on: the table is a partial map in one canonical form (R33). -/
def codesRise : Nat → List Controller → Bool
  | _, [] => true
  | lo, c :: rest => decide (lo ≤ c.code.toNat) && codesRise (c.code.toNat + 1) rest

/-- A device table that R6 admits: a map from codes other than the pseudo-devices', with distinct priorities (D10). -/
def deviceTableOk (cfg : Config) (l : List Controller) : Bool :=
  codesRise 0 l && l.all (fun c => genericDev cfg.mdvPresent c.code) && prioritiesDistinct l

/-- The kinds of controller of R6 and R34. -/
inductive DevKind where
  | reader
  | writer
  | rtc
deriving DecidableEq, Repr

/-- The kind of a controller's unit. -/
def DevUnit.kind : DevUnit → DevKind
  | .reader _ _ => .reader
  | .writer _ _ _ => .writer
  | .rtc _ => .rtc

/-- Which controllers a device table installs: the code, the kind and the priority of each, which R34 calls fixed. It is
DEVICES of R6. -/
def tableKey (l : List Controller) : List (DevCode × DevKind × Fin 16) :=
  l.map fun c => (c.code, c.unit.kind, c.priority)

/-- `dev(d)` is installed and Done. -/
def State.isDone (s : State) (d : DevCode) : Bool :=
  match s.dev d with
  | some c => c.st == .done
  | none => false

/-- The invariant of the machine, kept by every step:
- memory is in its canonical form;
- the device table is one that R6 admits;
- the request bit of every device code says whether a controller there is Done (R35), so it is 0 where none is (R30);
- ION and ION-pending are not both set (R36);
- DIS is a function of one mask word and the device table (R31; 0 is the function of the mask 0). -/
structure State.Inv (s : State) : Prop where
  memory : s.mem.wf = true
  table : deviceTableOk s.cfg s.devices = true
  requests : ∀ d : DevCode, s.req.getLsbD d.toNat = s.isDone d
  enable : s.ion = true → s.ionp = false
  mask : ∃ m : Word, s.dis = maskSet s.cfg m s.devices

/-- Whether the step to come executes an instruction: the turn of a running core, or the console's InstStep while stopped
(R250, R309). -/
def State.executesNext (s : State) : Bool :=
  match s.run, s.agenda with
  | .running, [] => true
  | .running, .core _ :: _ => true
  | .stopped, .console (.instStep _) :: _ => true
  | _, _ => false

/-- Whether the step to come serves a ProgramLoad (R317, R319). -/
def State.loadsNext (s : State) : Bool :=
  match s.run, s.agenda with
  | .stopped, .console .programLoad :: _ => true
  | _, _ => false

/-- The same outcome with its next state changed by `f`. -/
def onNext (f : State → State) (r : Result) : Result :=
  match r with
  | .next t => .next (f t)
  | .fault e => .fault e
  | .refused e => .refused e

/-! ## Classes of instructions -/

/-- The instructions of the ALC class (R71, R80). -/
def isAlc : Instr → Bool
  | .com _ | .neg _ | .mov _ | .inc _ | .adc _ | .sub _ | .add _ | .and _ => true
  | _ => false

/-- The instructions of the memory-reference class (R71, R81). -/
def isMemRef : Instr → Bool
  | .jmp _ | .jsr _ | .isz _ | .dsz _ | .lda _ _ | .sta _ _ => true
  | _ => false

/-- The instructions to the CPU pseudo-device that take a control function (R83, R211). -/
def isCpuControl : Instr → Bool
  | .nioCpu _ _ | .reads _ _ | .doaCpu _ _ | .inta _ _ | .msko _ _ | .iorst _ _ | .halt _ _ => true
  | _ => false

/-- The instructions whose transfer can reach a controller (R82, R205). -/
def isDeviceIo : Instr → Bool
  | .nio _ _ _ | .dia _ _ _ | .doa _ _ _ | .dib _ _ _ | .dob _ _ _ | .dic _ _ _ | .doc _ _ _ | .iorst _ _ => true
  | _ => false

/-- Which accumulator an instruction may write: the table of R20. -/
def mayWrite (i : Instr) (j : Ac) : Bool :=
  match i with
  | .com a | .neg a | .mov a | .inc a | .adc a | .sub a | .add a | .and a => !a.nl && a.acd == j
  | .lda ac _ => ac == j
  | .jsr _ => j == .ac3
  | .nio ac _ _ | .dia ac _ _ | .dib ac _ _ | .dic ac _ _ => ac == j
  | .reads ac _ | .inta ac _ => ac == j
  | .mul | .div => j == .ac0 || j == .ac1
  | _ => false

/-! ## The ALC data path in exact arithmetic -/

/-- The seeded sum on numbers (R103): the selected carry at 2^16, plus the function value, modulo 2^17. -/
def seededNat (cin : Bool) (f : Nat) : Nat := (65536 * cin.toNat + f) % 131072

/-- The shifter on numbers below 2^17 (R104 to R106). -/
def shiftedNat (sh : Shift) (t : Nat) : Nat :=
  match sh with
  | .none => t
  | .left => 2 * t % 131072 + t / 65536
  | .right => t / 2 + 65536 * (t % 2)
  | .swap => 65536 * (t / 65536) + 256 * (t % 256) + t / 256 % 256

/-- What an ALC instruction with the function value `f` leaves, as R100 says it, in exact arithmetic. -/
def State.afterAlc (s : State) (a : AlcFields) (f : Nat) : State :=
  let u := shiftedNat a.sh (seededNat (carrySelect a.cy s.carry) f)
  { s with
    acs := if a.nl then s.acs else s.acs.set a.acd (BitVec.ofNat 16 u),
    carry := if a.nl then s.carry else decide (65536 ≤ u),
    pc := if skipHolds a.sk (decide (65536 ≤ u)) (BitVec.ofNat 16 u) then s.pc + 1 else s.pc }

/-! ## Effective addresses in exact arithmetic -/

/-- The masked mode address as a number (R141, R142, R146): the displacement unsigned in page zero, signed from a base in
the relative modes, modulo 2^15. -/
def modeAddressNat (s : State) (m : EaFields) : Int :=
  match m.mode with
  | .pageZero => (m.disp.toNat : Int)
  | .pcRel => ((s.pc.toNat : Int) - 1 + m.disp.toInt) % 32768
  | .ac2Rel => (((s.ac .ac2).toNat : Int) + m.disp.toInt) % 32768
  | .ac3Rel => (((s.ac .ac3).toNat : Int) + m.disp.toInt) % 32768

/-! ## Words in exact arithmetic -/

/-- Accumulator n has field value n (R78). -/
def acNat : Ac → Nat
  | .ac0 => 0
  | .ac1 => 1
  | .ac2 => 2
  | .ac3 => 3

/-- SH, CY and SKIP of R72, MODE of R73, F and the tests of R75: the n-th of each list has value n - 1 (R76). -/
def shiftNat : Shift → Nat
  | .none => 0
  | .left => 1
  | .right => 2
  | .swap => 3

def carryNat : CarrySel → Nat
  | .prev => 0
  | .zero => 1
  | .one => 2
  | .comp => 3

def skipNat : Skip → Nat
  | .never => 0
  | .skp => 1
  | .szc => 2
  | .snc => 3
  | .szr => 4
  | .snr => 5
  | .sez => 6
  | .sbn => 7

def modeNat : Mode → Nat
  | .pageZero => 0
  | .pcRel => 1
  | .ac2Rel => 2
  | .ac3Rel => 3

def ctlNat : Ctl → Nat
  | .none => 0
  | .start => 1
  | .clear => 2
  | .pulse => 3

def testNat : IoTest → Nat
  | .bn => 0
  | .bz => 1
  | .dn => 2
  | .dz => 3

def ioOpNat : IoOp → Nat
  | .nio => 0
  | .dia => 1
  | .doa => 2
  | .dib => 3
  | .dob => 4
  | .dic => 5
  | .doc => 6

/-- ALC: 0x8000 + ACS * 2^13 + ACD * 2^11 + OP * 2^8 + SH * 2^6 + CY * 2^4 + NL * 2^3 + SKIP (R72, R90). -/
def alcNat (op : Nat) (a : AlcFields) : Nat :=
  0x8000 + acNat a.acs * 8192 + acNat a.acd * 2048 + op * 256 + shiftNat a.sh * 64 + carryNat a.cy * 16 +
    a.nl.toNat * 8 + skipNat a.sk

/-- MRF and MRA: GRP * 2^13 + (FN or AC) * 2^11 + I * 2^10 + MODE * 2^8 + DISP (R73, R74, R90). -/
def memRefNat (grp fn : Nat) (m : EaFields) : Nat :=
  grp * 8192 + fn * 2048 + m.ind.toNat * 1024 + modeNat m.mode * 256 + m.disp.toNat

/-- IOT: 0x6000 + AC * 2^11 + OP * 2^8 + F * 2^6 + DEV (R75, R90). -/
def ioNat (ac : Ac) (op f dev : Nat) : Nat := 0x6000 + acNat ac * 2048 + op * 256 + f * 64 + dev

/-- The word of each instruction as a number, with the field values of R80 to R84. -/
def wordNat : Instr → Nat
  | .com a => alcNat 0 a
  | .neg a => alcNat 1 a
  | .mov a => alcNat 2 a
  | .inc a => alcNat 3 a
  | .adc a => alcNat 4 a
  | .sub a => alcNat 5 a
  | .add a => alcNat 6 a
  | .and a => alcNat 7 a
  | .jmp m => memRefNat 0 0 m
  | .jsr m => memRefNat 0 1 m
  | .isz m => memRefNat 0 2 m
  | .dsz m => memRefNat 0 3 m
  | .lda ac m => memRefNat 1 (acNat ac) m
  | .sta ac m => memRefNat 2 (acNat ac) m
  | .mul => 0x76C1
  | .div => 0x7641
  | .docMdv ac pulse => 0x6641 + acNat ac * 2048 + pulse.toNat * 128
  | .skpMdv ac t => 0x6701 + acNat ac * 2048 + testNat t * 64
  | .otherMdv ac op f => ioNat ac (ioOpNat op) (ctlNat f) 1
  | .nioCpu ac f => 0x603F + acNat ac * 2048 + ctlNat f * 64
  | .reads ac f => 0x613F + acNat ac * 2048 + ctlNat f * 64
  | .doaCpu ac f => 0x623F + acNat ac * 2048 + ctlNat f * 64
  | .inta ac f => 0x633F + acNat ac * 2048 + ctlNat f * 64
  | .msko ac f => 0x643F + acNat ac * 2048 + ctlNat f * 64
  | .iorst ac f => 0x653F + acNat ac * 2048 + ctlNat f * 64
  | .halt ac f => 0x663F + acNat ac * 2048 + ctlNat f * 64
  | .skpbnCpu ac => 0x673F + acNat ac * 2048
  | .skpbzCpu ac => 0x677F + acNat ac * 2048
  | .skpdnCpu ac => 0x67BF + acNat ac * 2048
  | .skpdzCpu ac => 0x67FF + acNat ac * 2048
  | .nio ac f d => ioNat ac 0 (ctlNat f) d.toNat
  | .dia ac f d => ioNat ac 1 (ctlNat f) d.toNat
  | .doa ac f d => ioNat ac 2 (ctlNat f) d.toNat
  | .dib ac f d => ioNat ac 3 (ctlNat f) d.toNat
  | .dob ac f d => ioNat ac 4 (ctlNat f) d.toNat
  | .dic ac f d => ioNat ac 5 (ctlNat f) d.toNat
  | .doc ac f d => ioNat ac 6 (ctlNat f) d.toNat
  | .skp ac t d => ioNat ac 7 (testNat t) d.toNat

end Sys2Proof.Machine
end

