-- ==== Sys2Proof/Laws/Devices.lean ====
section
/-! SUPPORT. The laws of the device table and of the two bitsets: what each operation on controllers can do, and that no
operation changes which controllers are installed. -/

namespace Sys2Proof.Machine

/-! ## The table under updates -/

/-- Looking up a code after the controller at `d` has changed. -/
theorem find_updateCode {f : Controller → Controller} (hf : ∀ c, (f c).code = c.code) (d d' : DevCode)
    (l : List Controller) :
    (updateCode d f l).find? (fun c => c.code == d') =
      if d' = d then (l.find? fun c => c.code == d').map f else l.find? fun c => c.code == d' := by
  induction l with
  | nil => simp [updateCode]
  | cons c rest ih =>
    have ih' : (rest.map fun c => if c.code = d then f c else c).find? (fun c => c.code == d') = _ := ih
    by_cases hd : c.code = d <;> by_cases hd' : c.code = d' <;> by_cases he : d' = d
    all_goals simp_all [updateCode]

/-- Looking up a code after RST to every controller. -/
theorem find_resetAll (d : DevCode) (l : List Controller) :
    (resetAll l).find? (fun c => c.code == d) = (l.find? fun c => c.code == d).map fun c => { c with st := .idle } := by
  induction l with
  | nil => rfl
  | cons c rest ih =>
    have ih' : (rest.map fun c : Controller => { c with st := DevState.idle }).find? (fun c => c.code == d) = _ := ih
    by_cases hd : c.code = d <;> simp_all [resetAll]

/-- A table keeps what every change of a controller keeps. -/
theorem map_updateCode {α : Type} {f : Controller → Controller} {g : Controller → α} (hf : ∀ c, g (f c) = g c)
    (d : DevCode) (l : List Controller) : (updateCode d f l).map g = l.map g := by
  simp only [updateCode, List.map_map]
  refine List.map_congr_left fun c _ => ?_
  by_cases h : c.code = d <;> simp [h, hf]

theorem map_resetAll {α : Type} {g : Controller → α} (hg : ∀ c : Controller, g { c with st := .idle } = g c)
    (l : List Controller) : (resetAll l).map g = l.map g := by
  simp only [resetAll, List.map_map]
  exact List.map_congr_left fun c _ => hg c


/-- The disable set depends on the mask and on what is installed alone (R31). -/
theorem maskSet_congr {cfg : Config} {m : Word} {l l' : List Controller} (h : tableKey l = tableKey l') :
    maskSet cfg m l = maskSet cfg m l' := by
  induction l generalizing l' with
  | nil =>
    cases l' with
    | nil => rfl
    | cons c rest => simp [tableKey] at h
  | cons c rest ih =>
    cases l' with
    | nil => simp [tableKey] at h
    | cons c' rest' =>
      simp only [tableKey, List.map_cons, List.cons.injEq, Prod.mk.injEq] at h
      have hr : maskSet cfg m rest = maskSet cfg m rest' := ih h.2
      have hm : maskedBy cfg m c = maskedBy cfg m c' := by simp only [maskedBy, h.1.2.2]
      simp only [maskSet, hm, h.1.1, hr]

/-- Whether R6 admits a table depends on what is installed alone. -/
theorem deviceTableOk_congr {cfg : Config} {l l' : List Controller} (h : tableKey l = tableKey l') :
    deviceTableOk cfg l = deviceTableOk cfg l' := by
  have hc : ∀ lo, codesRise lo l = codesRise lo l' := by
    induction l generalizing l' with
    | nil =>
      cases l' with
      | nil => intro lo; rfl
      | cons c rest => simp [tableKey] at h
    | cons c rest ih =>
      cases l' with
      | nil => simp [tableKey] at h
      | cons c' rest' =>
        simp only [tableKey, List.map_cons, List.cons.injEq, Prod.mk.injEq] at h
        intro lo
        simp only [codesRise, h.1.1, ih (l' := rest') h.2]
  have hg : ∀ k : List Controller, (k.all fun c => genericDev cfg.mdvPresent c.code) =
      (tableKey k).all fun p => genericDev cfg.mdvPresent p.1 := fun k => by simp [tableKey, Function.comp_def]
  have hp : ∀ k : List Controller, prioritiesDistinct k = decide (((tableKey k).map fun p => p.2.2).Nodup) := fun k => by
    simp [prioritiesDistinct, tableKey, Function.comp_def]
  simp only [deviceTableOk, hc, hg, hp, h]

@[simp] theorem tableKey_setDevState (s : State) (d : DevCode) (st : DevState) :
    tableKey (s.setDevState d st).devices = tableKey s.devices :=
  map_updateCode (f := fun c => { c with st := st }) (fun _ => rfl) d s.devices

/-- A change of data that keeps the kind keeps what is installed. -/
theorem tableKey_mapUnit {f : DevUnit → DevUnit} (hf : ∀ u, (f u).kind = u.kind) (s : State) (d : DevCode) :
    tableKey (s.mapUnit d f).devices = tableKey s.devices :=
  map_updateCode (f := fun c => { c with unit := f c.unit }) (fun c => by simp only [hf]) d s.devices

@[simp] theorem DevUnit.kind_act (u : DevUnit) (ans : StreamAnswer) : (u.act ans).kind = u.kind := by
  cases u <;> cases ans <;> rfl
@[simp] theorem DevUnit.kind_attach (u : DevUnit) : u.attach.kind = u.kind := by cases u <;> rfl
@[simp] theorem DevUnit.kind_outputA (u : DevUnit) (w : Word) : (outputA u w).kind = u.kind := by cases u <;> rfl

@[simp] theorem tableKey_resetAll (l : List Controller) : tableKey (resetAll l) = tableKey l :=
  map_resetAll (fun _ => rfl) l

/-! ## Looking up a controller -/

@[simp] theorem State.dev_setDevState (s : State) (d d' : DevCode) (st : DevState) :
    (s.setDevState d st).dev d' = if d' = d then (s.dev d').map (fun c => { c with st := st }) else s.dev d' := by
  unfold State.dev
  rw [State.setDevState_devices, find_updateCode]
  intro c
  rfl

@[simp] theorem State.dev_mapUnit (s : State) (d d' : DevCode) (f : DevUnit → DevUnit) :
    (s.mapUnit d f).dev d' = if d' = d then (s.dev d').map (fun c => { c with unit := f c.unit }) else s.dev d' := by
  unfold State.dev
  rw [State.mapUnit_devices, find_updateCode]
  intro c
  rfl

@[simp] theorem State.dev_resetIo (s : State) (d : DevCode) :
    s.resetIo.dev d = (s.dev d).map fun c => { c with st := .idle } := find_resetAll d s.devices

/-- `dev` sees the device table alone. -/
theorem State.dev_congr {s t : State} (h : t.devices = s.devices) (d : DevCode) : t.dev d = s.dev d := by
  simp only [State.dev, h]

@[simp] theorem State.dev_setReq (s : State) (d d' : DevCode) : (s.setReq d).dev d' = s.dev d' := rfl
@[simp] theorem State.dev_clearReq (s : State) (d d' : DevCode) : (s.clearReq d).dev d' = s.dev d' := rfl
@[simp] theorem State.dev_setAc (s : State) (i : Ac) (v : Word) (d : DevCode) : (s.setAc i v).dev d = s.dev d := rfl
@[simp] theorem State.dev_countDraw (s : State) (d : DevCode) : s.countDraw.dev d = s.dev d := rfl
@[simp] theorem State.dev_answer (s : State) (r : Reply) (d : DevCode) : (s.answer r).dev d = s.dev d := rfl

/-! ## Bitsets -/

/-- The one bit of a code's set. -/
@[simp] theorem getLsbD_devBit (d d' : DevCode) : (devBit d).getLsbD d'.toNat = decide (d' = d) := by
  have h : d.toNat < 64 := d.isLt
  have h' : d'.toNat < 64 := d'.isLt
  simp only [devBit, BitVec.getLsbD_shiftLeft, BitVec.getLsbD_one]
  by_cases he : d' = d
  · subst he
    simp [h]
  · have hn : d'.toNat ≠ d.toNat := fun e => he (BitVec.eq_of_toNat_eq e)
    by_cases hlt : d'.toNat < d.toNat
    · simp [he, hlt]
    · have : d'.toNat - d.toNat ≠ 0 := by omega
      simp [he, this]

@[simp] theorem State.req_setReq (s : State) (d d' : DevCode) :
    (s.setReq d).req.getLsbD d'.toNat = (s.req.getLsbD d'.toNat || decide (d' = d)) := by
  simp [State.setReq]

@[simp] theorem State.req_clearReq (s : State) (d d' : DevCode) :
    (s.clearReq d).req.getLsbD d'.toNat = (s.req.getLsbD d'.toNat && !decide (d' = d)) := by
  have h' : d'.toNat < 64 := d'.isLt
  rw [State.clearReq_req, BitVec.getLsbD_and, BitVec.getLsbD_not, getLsbD_devBit]
  simp [h']

/-- Everything the disable set says: a code's bit is set when a controller there is masked (R203). -/
theorem getLsbD_maskSet (cfg : Config) (m : Word) (l : List Controller) (d : DevCode) :
    (maskSet cfg m l).getLsbD d.toNat = l.any fun c => c.code == d && maskedBy cfg m c := by
  induction l with
  | nil => simp [maskSet]
  | cons c rest ih =>
    rw [List.any_cons, ← ih]
    by_cases hm : maskedBy cfg m c = true
    · simp only [maskSet, hm, if_true, BitVec.getLsbD_or, getLsbD_devBit, Bool.and_true]
      congr 1
      by_cases hc : c.code = d
      · simp [hc]
      · simp [hc, Ne.symm hc]
    · simp only [maskSet, hm, Bool.and_false, Bool.false_or]
      rfl

/-- What the scan for the lowest code answers (R202): 0 for the empty set, else the least code in it. -/
theorem lowestCode_cases (e : DevSet) :
    (e = 0#64 ∧ lowestCode e = 0#16) ∨
    ∃ d : DevCode, e.getLsbD d.toNat = true ∧ (∀ d' : DevCode, d'.toNat < d.toNat → e.getLsbD d'.toNat = false) ∧
      lowestCode e = d.setWidth 16 := by
  unfold lowestCode
  cases h : (List.range 64).find? (fun d => e.getLsbD d) with
  | none =>
    left
    refine ⟨BitVec.eq_of_getLsbD_eq fun i hi => ?_, rfl⟩
    have := List.find?_eq_none.mp h i (List.mem_range.mpr hi)
    simpa using this
  | some n =>
    right
    obtain ⟨hn, as, bs, heq, hbefore⟩ := List.find?_eq_some_iff_append.mp h
    have hmem : n ∈ List.range 64 := by rw [heq]; simp
    have hlt : n < 64 := List.mem_range.mp hmem
    have hlen : n = as.length := by
      have h1 : (List.range 64)[as.length]? = some n := by rw [heq]; simp
      have h2 : as.length < 64 := by
        have := congrArg List.length heq
        simp at this
        omega
      rw [List.getElem?_range h2] at h1
      exact (Option.some.inj h1).symm
    refine ⟨BitVec.ofNat 6 n, ?_, fun d' hd' => ?_, ?_⟩
    · simpa [Nat.mod_eq_of_lt hlt] using hn
    · have hd : d'.toNat < n := by simpa [Nat.mod_eq_of_lt hlt] using hd'
      have hmem' : d'.toNat ∈ as := by
        have h1 : (List.range 64)[d'.toNat]? = some d'.toNat := by rw [List.getElem?_range (by omega)]
        rw [heq, List.getElem?_append_left (by omega)] at h1
        exact List.mem_of_getElem? h1
      simpa using hbefore _ hmem'
    · apply BitVec.eq_of_toNat_eq
      simp only [BitVec.toNat_ofNat, BitVec.toNat_setWidth]
      omega

/-! ## Control functions and completions -/

/-- Everything the control field can do to a controller's code (R270): nothing, or a new state with the request bit
cleared. -/
theorem State.control_cases (s : State) (f : Ctl) (d : DevCode) :
    s.control f d = s ∨ ∃ st, st ≠ .done ∧ s.control f d = (s.setDevState d st).clearReq d := by
  cases f with
  | none => exact .inl rfl
  | start => exact .inr ⟨.busy, by decide, rfl⟩
  | clear => exact .inr ⟨.idle, by decide, rfl⟩
  | pulse => exact .inl rfl

/-- Everything a completion tick can do (R274, R278): nothing when the controller is absent or not Busy; Idle and no
request on a stream error; else the physical action, Done and the request. -/
theorem State.tick_cases (s : State) (t : Completion) :
    (s.tick t = s ∧ ∀ c, s.dev t.code = some c → c.st ≠ .busy) ∨
    ∃ c, s.dev t.code = some c ∧ c.st = .busy ∧
      ((c.unit.failsOn t.answer = true ∧ s.tick t = (s.setDevState t.code .idle).clearReq t.code) ∨
       (c.unit.failsOn t.answer = false ∧
        s.tick t = ((s.mapUnit t.code fun u => u.act t.answer).setDevState t.code .done).setReq t.code)) := by
  unfold State.tick
  cases h : s.dev t.code with
  | none => exact .inl ⟨rfl, by simp⟩
  | some c =>
    by_cases hb : c.st = .busy
    · refine .inr ⟨c, rfl, hb, ?_⟩
      cases hf : c.unit.failsOn t.answer with
      | true => exact .inl ⟨rfl, by simp [hb, hf, State.clearDev]⟩
      | false => exact .inr ⟨rfl, by simp [hb, hf]⟩
    · refine .inl ⟨by simp [hb], fun c' hc' => ?_⟩
      cases hc'
      exact hb

end Sys2Proof.Machine
end

