-- ==== Sys2Proof/Laws/Memory.lean ====
section
/-! SUPPORT. The laws of memory: every operation keeps the canonical form; a read after a write; equal reads are equal
memories. -/

namespace Sys2Proof.Machine

/-! ## Byte cells -/

theorem Memory.wfFrom_mono {m : Memory} {lo lo' : Nat} (h : lo' ≤ lo) (hw : m.wfFrom lo = true) :
    m.wfFrom lo' = true := by
  cases m with
  | nil => rfl
  | cons c rest =>
    obtain ⟨a, b⟩ := c
    simp only [Memory.wfFrom, Bool.and_eq_true, decide_eq_true_eq] at hw ⊢
    exact ⟨⟨⟨le_trans h hw.1.1.1, hw.1.1.2⟩, hw.1.2⟩, hw.2⟩

/-- Cells below the canonical form's start read 0. -/
theorem Memory.readByte_below {m : Memory} {lo k : Nat} (hw : m.wfFrom lo = true) (hk : k < lo) :
    m.readByte k = 0 := by
  induction m generalizing lo with
  | nil => rfl
  | cons c rest ih =>
    obtain ⟨a, b⟩ := c
    simp only [Memory.wfFrom, Bool.and_eq_true, decide_eq_true_eq] at hw
    have hka : k ≠ a := by omega
    simp only [Memory.readByte, hka, if_false]
    exact ih hw.2 (by omega)

/-- Everything a byte store does to one cell's value: it writes it, and leaves every other cell. -/
theorem Memory.readByte_writeByte {m : Memory} {lo : Nat} (hw : m.wfFrom lo = true) (k j : Nat) (v : Byte) :
    (m.writeByte k v).readByte j = if j = k then v else m.readByte j := by
  induction m generalizing lo with
  | nil =>
    by_cases hv : v = 0#8 <;> by_cases hj : j = k <;> simp [Memory.writeByte, Memory.readByte, hv, hj]
  | cons c rest ih =>
    obtain ⟨a, b⟩ := c
    simp only [Memory.wfFrom, Bool.and_eq_true, decide_eq_true_eq] at hw
    have below : ∀ n, n < a + 1 → Memory.readByte rest n = 0 := fun n h => Memory.readByte_below hw.2 h
    by_cases hlt : k < a
    · have hka : k ≠ a := by omega
      by_cases hv : v = 0#8
      · by_cases hj : j = k
        · subst hj
          simp [Memory.writeByte, Memory.readByte, hlt, hv, hka, below j (by omega)]
        · simp [Memory.writeByte, hlt, hv, hj]
      · by_cases hj : j = k <;> simp [Memory.writeByte, Memory.readByte, hlt, hv, hj]
    · by_cases heq : k = a
      · subst heq
        by_cases hv : v = 0#8
        · by_cases hj : j = k
          · subst hj
            simp [Memory.writeByte, hv, below j (by omega)]
          · simp [Memory.writeByte, Memory.readByte, hv, hj]
        · by_cases hj : j = k <;> simp [Memory.writeByte, Memory.readByte, hv, hj]
      · simp only [Memory.writeByte, hlt, heq, if_false, Memory.readByte, ih hw.2]
        by_cases hj : j = a
        · have : j ≠ k := by omega
          simp [hj, Ne.symm heq]
        · simp [hj]

/-- A byte store keeps the canonical form. -/
theorem Memory.wfFrom_writeByte {m : Memory} {lo k : Nat} (hw : m.wfFrom lo = true) (hlo : lo ≤ k) (hk : k < 65536)
    (v : Byte) : (m.writeByte k v).wfFrom lo = true := by
  induction m generalizing lo with
  | nil =>
    by_cases hv : v = 0#8 <;> simp [Memory.writeByte, Memory.wfFrom, hv, hlo, hk]
  | cons c rest ih =>
    obtain ⟨a, b⟩ := c
    have hw' := hw
    simp only [Memory.wfFrom, Bool.and_eq_true, decide_eq_true_eq] at hw
    by_cases hlt : k < a
    · by_cases hv : v = 0#8
      · simp [Memory.writeByte, hlt, hv, hw']
      · simp only [Memory.writeByte, hlt, hv, if_true, if_false, Memory.wfFrom, Bool.and_eq_true, decide_eq_true_eq]
        exact ⟨⟨⟨hlo, hk⟩, by simp [hv]⟩, ⟨⟨by omega, hw.1.1.2⟩, hw.1.2⟩, hw.2⟩
    · by_cases heq : k = a
      · subst heq
        by_cases hv : v = 0#8
        · simp only [Memory.writeByte, lt_irrefl, hv, if_true, if_false]
          exact Memory.wfFrom_mono (by omega) hw.2
        · simp only [Memory.writeByte, lt_irrefl, hv, if_true, if_false, Memory.wfFrom, Bool.and_eq_true,
            decide_eq_true_eq]
          exact ⟨⟨⟨hlo, hk⟩, by simp [hv]⟩, hw.2⟩
      · simp only [Memory.writeByte, hlt, heq, if_false, Memory.wfFrom, Bool.and_eq_true, decide_eq_true_eq]
        exact ⟨⟨⟨hw.1.1.1, hw.1.1.2⟩, hw.1.2⟩, ih hw.2 (by omega)⟩

/-- Two canonical memories with the same reads are the same list. -/
theorem Memory.ext_readByte {m m' : Memory} {lo : Nat} (hw : m.wfFrom lo = true) (hw' : m'.wfFrom lo = true)
    (h : ∀ k, m.readByte k = m'.readByte k) : m = m' := by
  induction m generalizing lo m' with
  | nil =>
    cases m' with
    | nil => rfl
    | cons c rest =>
      obtain ⟨a, b⟩ := c
      simp only [Memory.wfFrom, Bool.and_eq_true, decide_eq_true_eq] at hw'
      have := h a
      simp [Memory.readByte] at this
      simp [← this] at hw'
  | cons c rest ih =>
    obtain ⟨a, b⟩ := c
    cases m' with
    | nil =>
      simp only [Memory.wfFrom, Bool.and_eq_true, decide_eq_true_eq] at hw
      have := h a
      simp [Memory.readByte] at this
      simp [this] at hw
    | cons c' rest' =>
      obtain ⟨a', b'⟩ := c'
      simp only [Memory.wfFrom, Bool.and_eq_true, decide_eq_true_eq, bne_iff_ne, ne_eq] at hw hw'
      have haa : a = a' := by
        by_contra hne
        rcases Nat.lt_or_gt_of_ne hne with hlt | hlt
        · have := h a
          simp [Memory.readByte, hne, Memory.readByte_below hw'.2 (show a < a' + 1 by omega)] at this
          exact hw.1.2 this
        · have := h a'
          simp [Memory.readByte, Ne.symm hne, Memory.readByte_below hw.2 (show a' < a + 1 by omega)] at this
          exact hw'.1.2 this.symm
      subst haa
      have hb : b = b' := by simpa [Memory.readByte] using h a
      subst hb
      have : rest = rest' := by
        refine ih hw.2 hw'.2 fun k => ?_
        by_cases hk : k = a
        · subst hk
          rw [Memory.readByte_below hw.2 (by omega), Memory.readByte_below hw'.2 (by omega)]
        · simpa [Memory.readByte, hk] using h k
      rw [this]

/-! ## Words -/

theorem loCell_lt (a : Addr) : loCell a < 65536 := by
  have := a.isLt
  simp only [loCell]
  omega

theorem hiCell_lt (a : Addr) : hiCell a < 65536 := by
  have := a.isLt
  simp only [hiCell]
  omega

/-- A word store keeps the canonical form. -/
theorem Memory.wf_writeWord {m : Memory} (hw : m.wf = true) (a : Addr) (v : Word) : (m.writeWord a v).wf = true :=
  Memory.wfFrom_writeByte (Memory.wfFrom_writeByte hw (Nat.zero_le _) (loCell_lt a) _) (Nat.zero_le _) (hiCell_lt a) _

/-- A bulk copy keeps the canonical form (R316). -/
theorem Memory.wf_writeWords {m : Memory} (hw : m.wf = true) (a : Addr) (l : List Word) :
    (m.writeWords a l).wf = true := by
  induction l generalizing m a with
  | nil => exact hw
  | cons w rest ih => exact ih (Memory.wf_writeWord hw a w) (a + 1)

/-- Everything a word store does to one cell's value. -/
theorem Memory.readByte_writeWord {m : Memory} (hw : m.wf = true) (a : Addr) (v : Word) (k : Nat) :
    (m.writeWord a v).readByte k =
      if k = hiCell a then v.extractLsb' 8 8 else if k = loCell a then v.extractLsb' 0 8 else m.readByte k := by
  have hw1 := Memory.wfFrom_writeByte hw (Nat.zero_le _) (loCell_lt a) (v.extractLsb' 0 8)
  rw [Memory.writeWord, Memory.readByte_writeByte hw1, Memory.readByte_writeByte hw]

/-- A word is its two bytes. -/
theorem extract_append (v : Word) : v.extractLsb' 8 8 ++ v.extractLsb' 0 8 = v := by
  apply BitVec.eq_of_getLsbD_eq
  intro i hi
  rw [BitVec.getLsbD_append]
  by_cases h : i < 8
  · simp [h]
  · have h' : i - 8 < 8 := by omega
    have h'' : 8 + (i - 8) = i := by omega
    simp [h, h', h'']

theorem Memory.readWord_writeWord_same {m : Memory} (hw : m.wf = true) (a : Addr) (v : Word) :
    (m.writeWord a v).readWord a = v := by
  have hne : loCell a ≠ hiCell a := by simp [loCell, hiCell]
  simp only [Memory.readWord, Memory.readByte_writeWord hw, if_true, hne, if_false]
  exact extract_append v

theorem Memory.readWord_writeWord_ne {m : Memory} (hw : m.wf = true) {a a' : Addr} (h : a' ≠ a) (v : Word) :
    (m.writeWord a v).readWord a' = m.readWord a' := by
  have hn : a'.toNat ≠ a.toNat := fun e => h (BitVec.eq_of_toNat_eq e)
  have h1 : hiCell a' ≠ hiCell a := by simp only [hiCell]; omega
  have h2 : hiCell a' ≠ loCell a := by simp only [hiCell, loCell]; omega
  have h3 : loCell a' ≠ hiCell a := by simp only [hiCell, loCell]; omega
  have h4 : loCell a' ≠ loCell a := by simp only [loCell]; omega
  simp [Memory.readWord, Memory.readByte_writeWord hw, h1, h2, h3, h4]

/-- A read after a write (R60). -/
theorem Memory.readWord_writeWord {m : Memory} (hw : m.wf = true) (a a' : Addr) (v : Word) :
    (m.writeWord a v).readWord a' = if a' = a then v else m.readWord a' := by
  by_cases h : a' = a
  · subst h
    simp [Memory.readWord_writeWord_same hw]
  · simp [h, Memory.readWord_writeWord_ne hw h]

/-- Power-on memory is canonical. -/
theorem State.reset_mem_wf : State.reset.mem.wf = true := rfl

end Sys2Proof.Machine
end

