-- ==== Sys2Proof/Laws/Ops.lean ====
section
/-! SUPPORT. One lemma per shared operation that says once everything it can do, for proofs to cite instead of unfolding
it: chains, the continuation after a chain, the interrupt sequence and check, the end of a step, a step. -/

namespace Sys2Proof.Machine

/-! ## Chains -/

/-- The memory a chain leaves, whichever way it comes out. -/
def Chain.memory : Chain → Memory
  | .ends _ m => m
  | .loops m => m

/-- One hop unfolded (R143): no hop left, or the loaded word's bit 15 decides whether the chain goes on. -/
theorem chase_succ (n : Nat) (m : Memory) (a : Addr) :
    chase (n + 1) m a =
      if (m.readWord a).getLsbD 15 then
        chase n (hopMemory m a (m.readWord a)) (maskAddr (hopWord a (m.readWord a)))
      else .ends (maskAddr (hopWord a (m.readWord a))) (hopMemory m a (m.readWord a)) := rfl

/-- Unless HOP_CAP is 0, a chain may make a first hop. -/
theorem hopLimit_succ {cfg : Config} (h : cfg.hopCap ≠ some 0) : ∃ n, hopLimit cfg = n + 1 := by
  unfold hopLimit
  cases hc : cfg.hopCap with
  | none => exact Nat.exists_eq_succ_of_ne_zero (by positivity : 0 < 2 ^ 271).ne'
  | some n =>
    cases n with
    | zero => exact absurd hc h
    | succ k => exact ⟨k, rfl⟩

/-- A hop keeps the canonical form. -/
theorem wf_hopMemory {m : Memory} (hw : m.wf = true) (a : Addr) (w : Word) : (hopMemory m a w).wf = true := by
  unfold hopMemory
  split
  · exact Memory.wf_writeWord hw a _
  · exact hw

/-- A chain keeps the canonical form. -/
theorem wf_chase {m : Memory} (hw : m.wf = true) (n : Nat) (a : Addr) : (chase n m a).memory.wf = true := by
  induction n generalizing m a with
  | zero => exact hw
  | succ n ih =>
    rw [chase_succ]
    split
    · exact ih (wf_hopMemory hw a _) _
    · exact wf_hopMemory hw a _

/-- An address resolution keeps the canonical form. -/
theorem State.wf_resolve {s : State} (hw : s.mem.wf = true) (m : EaFields) : (s.resolve m).memory.wf = true := by
  unfold State.resolve
  split
  · exact wf_chase hw _ _
  · exact hw

/-- Everything the continuation after a chain can do. -/
theorem State.afterChain_cases {s t : State} {c : Chain} {k : Addr → State → State}
    (h : s.afterChain c k = .next t) :
    (∃ e m, c = .ends e m ∧ t = k e { s with mem := m }) ∨
    (∃ m, c = .loops m ∧ s.cfg.hopCap ≠ none ∧
      t = { s with mem := m, latch := .indirectLoop, run := .stopped }) := by
  unfold State.afterChain at h
  cases c with
  | ends e m => exact .inl ⟨e, m, rfl, by simpa using h.symm⟩
  | loops m =>
    refine .inr ⟨m, rfl, ?_⟩
    simp only [State.indirectLoop] at h
    cases hc : s.cfg.hopCap with
    | none => simp [hc] at h
    | some n => exact ⟨by simp, by simpa [hc] using h.symm⟩

/-- With a finite HOP_CAP the continuation after a chain always answers a next state (R284). -/
theorem State.afterChain_next {s : State} (hc : s.cfg.hopCap ≠ none) (c : Chain) (k : Addr → State → State) :
    ∃ t, s.afterChain c k = .next t := by
  cases c with
  | ends e m => exact ⟨_, rfl⟩
  | loops m =>
    cases h : s.cfg.hopCap with
    | none => exact absurd h hc
    | some n => exact ⟨_, by simp only [State.afterChain, State.indirectLoop, h]; rfl⟩

/-- A refusal never comes from a chain. -/
theorem State.afterChain_not_refused (s : State) (c : Chain) (k : Addr → State → State) (r : Refusal) :
    s.afterChain c k ≠ .refused r := by
  cases c with
  | ends e m => simp [State.afterChain]
  | loops m =>
    simp only [State.afterChain, State.indirectLoop]
    split <;> simp

/-! ## Memory references -/

/-- Everything a memory reference can do (R140, R147): its operation at the address the resolution came to, over memory as
the hops left it, or the IndirectLoop stop. -/
theorem State.atAddress_cases {s t : State} {m : EaFields} {k : Addr → State → State}
    (h : s.atAddress m k = .next t) :
    (∃ e m', s.resolve m = .ends e m' ∧ t = k e { s with mem := m' }) ∨
    (∃ m', s.resolve m = .loops m' ∧ s.cfg.hopCap ≠ none ∧
      t = { s with mem := m', latch := .indirectLoop, run := .stopped }) :=
  State.afterChain_cases h

/-- A memory reference whose resolution ends does its operation there (R140). -/
theorem State.atAddress_ends {s : State} {m : EaFields} {e : Addr} {m' : Memory} (h : s.resolve m = .ends e m')
    (k : Addr → State → State) : s.atAddress m k = .next (k e { s with mem := m' }) := by
  simp only [State.atAddress, h, State.afterChain]

/-- With a finite HOP_CAP a memory reference always answers a next state (R284). -/
theorem State.atAddress_next {s : State} (hc : s.cfg.hopCap ≠ none) (m : EaFields) (k : Addr → State → State) :
    ∃ t, s.atAddress m k = .next t :=
  State.afterChain_next hc _ _

/-! ## I/O transfers -/

/-- Everything an input transfer can do: nothing on an absent device (R184); else the accumulator takes the reply or a free
value (R174), and then the control field applies (R172). -/
theorem State.ioInput_cases (s : State) (data : Controller → Option Word) (ac : Ac) (f : Ctl) (d : DevCode) :
    (s.dev d = none ∧ s.ioInput data ac f d = s) ∨
    (∃ c w, s.dev d = some c ∧ data c = some w ∧ s.ioInput data ac f d = (s.setAc ac w).control f d) ∨
    (∃ c, s.dev d = some c ∧ data c = none ∧
      s.ioInput data ac f d = ((s.setAc ac s.drawnWord).countDraw).control f d) := by
  unfold State.ioInput
  cases h : s.dev d with
  | none => exact .inl ⟨rfl, rfl⟩
  | some c =>
    cases hd : data c with
    | some w => exact .inr (.inl ⟨c, w, rfl, hd, by simp only [State.takeReply, hd]⟩)
    | none => exact .inr (.inr ⟨c, rfl, hd, by simp only [State.takeReply, hd]⟩)

/-- Everything an output to register A can do: nothing on an absent device (R184); else the unit latches the accumulator, and
then the control field applies (R179). -/
theorem State.ioOutputA_cases (s : State) (ac : Ac) (f : Ctl) (d : DevCode) :
    (s.dev d = none ∧ s.ioOutputA ac f d = s) ∨
    (∃ c, s.dev d = some c ∧ s.ioOutputA ac f d = (s.mapUnit d fun u => outputA u (s.ac ac)).control f d) := by
  unfold State.ioOutputA
  cases h : s.dev d with
  | none => exact .inl ⟨rfl, rfl⟩
  | some c => exact .inr ⟨c, rfl, rfl⟩

/-- Everything an output whose data is discarded can do: nothing on an absent device (R184); else the control field
applies (R181, R183). -/
theorem State.ioOutputNone_cases (s : State) (f : Ctl) (d : DevCode) :
    (s.dev d = none ∧ s.ioOutputNone f d = s) ∨ (∃ c, s.dev d = some c ∧ s.ioOutputNone f d = s.control f d) := by
  unfold State.ioOutputNone
  cases h : s.dev d with
  | none => exact .inl ⟨rfl, rfl⟩
  | some c => exact .inr ⟨c, rfl, rfl⟩

/-! ## Interrupts and the end of a step -/

/-- Everything the interrupt sequence can do (R262). -/
theorem State.interruptSequence_cases {s t : State} (h : s.interruptSequence = .next t) :
    (∃ e m, chase (hopLimit s.cfg) (s.mem.writeWord 0 (zext s.pc)) 1 = .ends e m ∧
      t = { s with ion := false, mem := m, pc := e }) ∨
    (∃ m, chase (hopLimit s.cfg) (s.mem.writeWord 0 (zext s.pc)) 1 = .loops m ∧
      t = { s with ion := false, mem := m, latch := .indirectLoop, run := .stopped }) := by
  have h' : (State.write { s with ion := false } 0 (zext s.pc)).afterChain
      (chase (hopLimit s.cfg) (s.mem.writeWord 0 (zext s.pc)) 1) (fun e t => t.setPc e) = .next t := h
  rcases State.afterChain_cases h' with ⟨e, m, hc, rfl⟩ | ⟨m, hc, _, rfl⟩
  · exact .inl ⟨e, m, hc, rfl⟩
  · exact .inr ⟨m, hc, rfl⟩

/-- The interrupt check does nothing or takes the interrupt (R261). -/
theorem State.interruptCheck_cases (s : State) :
    (s.interruptCheck = .next s ∧ (s.ion = false ∨ s.honoured = 0#64)) ∨
    (s.interruptCheck = s.interruptSequence ∧ s.ion = true ∧ s.honoured ≠ 0#64) := by
  unfold State.interruptCheck
  by_cases hi : s.ion = true <;> by_cases hh : s.honoured = 0#64 <;> simp [hi, hh]

/-- Everything the end of a step can do after an instruction that answered `t` (R250). -/
theorem State.finish_cases (t : State) (mid : List Completion) :
    (t.run = .running ∧ t.finish mid = (t.ticks mid).interruptCheck) ∨ (t.run = .stopped ∧ t.finish mid = .next t) := by
  unfold State.finish
  cases h : t.run with
  | stopped => exact .inr ⟨rfl, rfl⟩
  | running => exact .inl ⟨rfl, rfl⟩

/-- A running core's turn is an instruction step (R250). -/
theorem State.coreTurn_running {s : State} (h : s.run = .running) (mid : List Completion) :
    s.coreTurn mid = s.instrStep mid := by
  unfold State.coreTurn
  split
  · rfl
  · next h' => rw [h] at h'; cases h'

/-- A stopped core's turn does nothing (R27). -/
theorem State.coreTurn_stopped {s : State} (h : s.run = .stopped) (mid : List Completion) :
    s.coreTurn mid = .next s := by
  unfold State.coreTurn
  split
  · next h' => rw [h] at h'; cases h'
  · rfl

/-- A step that answers a next state executed an instruction that did (R250). -/
theorem finishResult_next {r : Result} {mid : List Completion} {u : State} (h : finishResult r mid = .next u) :
    ∃ t, r = .next t ∧ t.finish mid = .next u := by
  cases r with
  | next t => exact ⟨t, rfl, h⟩
  | fault e => simp [finishResult] at h
  | refused e => simp [finishResult] at h

/-- Everything one step of the machine can be, over the state with its turn taken off the agenda: an instruction step, a
stopped core's turn, a completion, or a console request (R11). -/
theorem step_cases (s : State) :
    ∃ l : List Turn,
      (∃ mid, s.run = .running ∧ step s = State.instrStep { s with agenda := l } mid) ∨
      (s.run = .stopped ∧ step s = .next { s with agenda := l }) ∨
      (∃ c, step s = .next (State.tick { s with agenda := l } c)) ∨
      (∃ op, step s = State.console { s with agenda := l } op) := by
  unfold step
  cases h : s.agenda with
  | nil =>
    have hs : s = { s with agenda := [] } := by rw [← h]
    refine ⟨[], ?_⟩
    rw [← hs]
    simp only [State.coreTurn]
    cases hr : s.run with
    | running => exact .inl ⟨[], rfl, rfl⟩
    | stopped => exact .inr (.inl ⟨rfl, rfl⟩)
  | cons turn rest =>
    refine ⟨rest, ?_⟩
    cases turn with
    | core mid =>
      simp only [State.takeTurn, State.coreTurn]
      cases hr : s.run with
      | running => exact .inl ⟨mid, rfl, rfl⟩
      | stopped => exact .inr (.inl ⟨rfl, rfl⟩)
    | device c => exact .inr (.inr (.inl ⟨c, rfl⟩))
    | console op => exact .inr (.inr (.inr ⟨op, rfl⟩))

/-- What the host is told at the end of a run: the reply given, or the error report of a run that ended in IndirectLoop
(R320). -/
theorem State.endReport_cases (s : State) (r : Reply) :
    (s.latch = .none ∧ s.endReport r = r) ∨ (s.latch = .indirectLoop ∧ s.endReport r = .indirectLoop) := by
  unfold State.endReport
  cases s.latch with
  | none => exact .inl ⟨rfl, rfl⟩
  | indirectLoop => exact .inr ⟨rfl, rfl⟩

/-- A request served only while stopped is served, or answered Running with nothing changed (R319). -/
theorem State.whenStopped_cases (s : State) (r : Result) :
    (s.run = .stopped ∧ s.whenStopped r = r) ∨ (s.run = .running ∧ s.whenStopped r = .next (s.answer .running)) := by
  unfold State.whenStopped
  cases s.run with
  | stopped => exact .inl ⟨rfl, rfl⟩
  | running => exact .inr ⟨rfl, rfl⟩

end Sys2Proof.Machine
end

