-- ==== Sys2Proof/Laws/PerInstr.lean ====
section
/-! SUPPORT. A law of every instruction, one lemma per constructor: the word of a well-formed instruction matches its row
of opcode_table.json (R80 to R84). -/

namespace Sys2Proof

/-- The bits of an ALC word that its row fixes: class and OP (R80). -/
theorem alcWord_and (op : BitVec 3) (a : AlcFields) :
    alcWord op a &&& 0x8700#16 = 1#1 ++ (0#4 ++ (op ++ 0#8)) := by
  apply BitVec.eq_of_getLsbD_eq
  intro i hi
  rw [BitVec.getLsbD_and]
  simp only [alcWord, BitVec.getLsbD_append]
  interval_cases i <;> simp

/-- The bits of an MRF word that its row fixes: class, GRP and FN (R81). -/
theorem memRefWord_and_fn (grp : BitVec 3) (fn : BitVec 2) (m : EaFields) :
    memRefWord grp fn m &&& 0xF800#16 = grp ++ (fn ++ 0#11) := by
  apply BitVec.eq_of_getLsbD_eq
  intro i hi
  rw [BitVec.getLsbD_and]
  simp only [memRefWord, BitVec.getLsbD_append]
  interval_cases i <;> simp

/-- The bits of an MRA word that its row fixes: class and GRP (R81). -/
theorem memRefWord_and_grp (grp : BitVec 3) (fn : BitVec 2) (m : EaFields) :
    memRefWord grp fn m &&& 0xE000#16 = grp ++ 0#13 := by
  apply BitVec.eq_of_getLsbD_eq
  intro i hi
  rw [BitVec.getLsbD_and]
  simp only [memRefWord, BitVec.getLsbD_append]
  interval_cases i <;> simp

/-- The bits of an I/O word under the widest I/O mask: class, OP, F and DEV, all but the AC field. -/
theorem ioWord_and (ac : Ac) (op : BitVec 3) (f : BitVec 2) (d : DevCode) :
    ioWord ac op f d &&& 0xE7FF#16 = 3#3 ++ (0#2 ++ (op ++ (f ++ d))) := by
  apply BitVec.eq_of_getLsbD_eq
  intro i hi
  rw [BitVec.getLsbD_and]
  simp only [ioWord, BitVec.getLsbD_append]
  interval_cases i <;> simp

/-- A generic I/O row fixes the class and OP (R82). -/
theorem ioWord_and_op (ac : Ac) (op : BitVec 3) (f : BitVec 2) (d : DevCode) :
    ioWord ac op f d &&& 0xE700#16 = 3#3 ++ (0#2 ++ (op ++ 0#8)) := by
  apply BitVec.eq_of_getLsbD_eq
  intro i hi
  rw [BitVec.getLsbD_and]
  simp only [ioWord, BitVec.getLsbD_append]
  interval_cases i <;> simp

/-- A CPU-device row fixes the class, OP and DEV (R83). -/
theorem ioWord_and_dev (ac : Ac) (op : BitVec 3) (f : BitVec 2) (d : DevCode) :
    ioWord ac op f d &&& 0xE73F#16 = 3#3 ++ (0#2 ++ (op ++ (0#2 ++ d))) := by
  apply BitVec.eq_of_getLsbD_eq
  intro i hi
  rw [BitVec.getLsbD_and]
  simp only [ioWord, BitVec.getLsbD_append]
  interval_cases i <;> simp

/-- The row `other MDV` fixes the class and DEV (R84). -/
theorem ioWord_and_class (ac : Ac) (op : BitVec 3) (f : BitVec 2) (d : DevCode) :
    ioWord ac op f d &&& 0xE03F#16 = 3#3 ++ (0#7 ++ d) := by
  apply BitVec.eq_of_getLsbD_eq
  intro i hi
  rw [BitVec.getLsbD_and]
  simp only [ioWord, BitVec.getLsbD_append]
  interval_cases i <;> simp

/-- The row of DOCS and DOCP to MDV fixes the class, OP, the low bit of F and DEV (R84). -/
theorem ioWord_and_doc (ac : Ac) (op : BitVec 3) (f : BitVec 2) (d : DevCode) :
    ioWord ac op f d &&& 0xE77F#16 = 3#3 ++ (0#2 ++ (op ++ (0#1 ++ (f.extractLsb' 0 1 ++ d)))) := by
  apply BitVec.eq_of_getLsbD_eq
  intro i hi
  rw [BitVec.getLsbD_and]
  simp only [ioWord, BitVec.getLsbD_append]
  interval_cases i <;> simp

namespace Laws

/-- The word of a well-formed instruction matches its opcode-table row. -/
def EncodedRow.Statement (i : Instr) : Prop :=
  ∀ mdv, i.wf mdv = true → encode i &&& i.row.mask = i.row.pattern

theorem EncodedRow.com (a : AlcFields) : EncodedRow.Statement (.com a) := fun _ _ => alcWord_and _ _

theorem EncodedRow.neg (a : AlcFields) : EncodedRow.Statement (.neg a) := fun _ _ => alcWord_and _ _

theorem EncodedRow.mov (a : AlcFields) : EncodedRow.Statement (.mov a) := fun _ _ => alcWord_and _ _

theorem EncodedRow.inc (a : AlcFields) : EncodedRow.Statement (.inc a) := fun _ _ => alcWord_and _ _

theorem EncodedRow.adc (a : AlcFields) : EncodedRow.Statement (.adc a) := fun _ _ => alcWord_and _ _

theorem EncodedRow.sub (a : AlcFields) : EncodedRow.Statement (.sub a) := fun _ _ => alcWord_and _ _

theorem EncodedRow.add (a : AlcFields) : EncodedRow.Statement (.add a) := fun _ _ => alcWord_and _ _

theorem EncodedRow.and (a : AlcFields) : EncodedRow.Statement (.and a) := fun _ _ => alcWord_and _ _

theorem EncodedRow.jmp (m : EaFields) : EncodedRow.Statement (.jmp m) := fun _ _ => memRefWord_and_fn _ _ _

theorem EncodedRow.jsr (m : EaFields) : EncodedRow.Statement (.jsr m) := fun _ _ => memRefWord_and_fn _ _ _

theorem EncodedRow.isz (m : EaFields) : EncodedRow.Statement (.isz m) := fun _ _ => memRefWord_and_fn _ _ _

theorem EncodedRow.dsz (m : EaFields) : EncodedRow.Statement (.dsz m) := fun _ _ => memRefWord_and_fn _ _ _

theorem EncodedRow.lda (ac : Ac) (m : EaFields) : EncodedRow.Statement (.lda ac m) :=
  fun _ _ => memRefWord_and_grp _ _ _

theorem EncodedRow.sta (ac : Ac) (m : EaFields) : EncodedRow.Statement (.sta ac m) :=
  fun _ _ => memRefWord_and_grp _ _ _

theorem EncodedRow.mul : EncodedRow.Statement .mul := fun _ _ => by decide

theorem EncodedRow.div : EncodedRow.Statement .div := fun _ _ => by decide

theorem EncodedRow.docMdv (ac : Ac) (pulse : Bool) : EncodedRow.Statement (.docMdv ac pulse) :=
  fun _ _ => by
  cases pulse <;> exact ioWord_and_doc _ _ _ _

theorem EncodedRow.skpMdv (ac : Ac) (t : IoTest) : EncodedRow.Statement (.skpMdv ac t) :=
  fun _ _ => ioWord_and_dev _ _ _ _

theorem EncodedRow.otherMdv (ac : Ac) (op : IoOp) (f : Ctl) : EncodedRow.Statement (.otherMdv ac op f) :=
  fun _ _ => ioWord_and_class _ _ _ _

theorem EncodedRow.nioCpu (ac : Ac) (f : Ctl) : EncodedRow.Statement (.nioCpu ac f) :=
  fun _ _ => ioWord_and_dev _ _ _ _

theorem EncodedRow.reads (ac : Ac) (f : Ctl) : EncodedRow.Statement (.reads ac f) := fun _ _ => ioWord_and_dev _ _ _ _

theorem EncodedRow.doaCpu (ac : Ac) (f : Ctl) : EncodedRow.Statement (.doaCpu ac f) :=
  fun _ _ => ioWord_and_dev _ _ _ _

theorem EncodedRow.inta (ac : Ac) (f : Ctl) : EncodedRow.Statement (.inta ac f) := fun _ _ => ioWord_and_dev _ _ _ _

theorem EncodedRow.msko (ac : Ac) (f : Ctl) : EncodedRow.Statement (.msko ac f) := fun _ _ => ioWord_and_dev _ _ _ _

theorem EncodedRow.iorst (ac : Ac) (f : Ctl) : EncodedRow.Statement (.iorst ac f) := fun _ _ => ioWord_and_dev _ _ _ _

theorem EncodedRow.halt (ac : Ac) (f : Ctl) : EncodedRow.Statement (.halt ac f) := fun _ _ => ioWord_and_dev _ _ _ _

theorem EncodedRow.skpbnCpu (ac : Ac) : EncodedRow.Statement (.skpbnCpu ac) := fun _ _ => ioWord_and _ _ _ _

theorem EncodedRow.skpbzCpu (ac : Ac) : EncodedRow.Statement (.skpbzCpu ac) := fun _ _ => ioWord_and _ _ _ _

theorem EncodedRow.skpdnCpu (ac : Ac) : EncodedRow.Statement (.skpdnCpu ac) := fun _ _ => ioWord_and _ _ _ _

theorem EncodedRow.skpdzCpu (ac : Ac) : EncodedRow.Statement (.skpdzCpu ac) := fun _ _ => ioWord_and _ _ _ _

theorem EncodedRow.nio (ac : Ac) (f : Ctl) (dev : DevCode) : EncodedRow.Statement (.nio ac f dev) :=
  fun _ _ => ioWord_and_op _ _ _ _

theorem EncodedRow.dia (ac : Ac) (f : Ctl) (dev : DevCode) : EncodedRow.Statement (.dia ac f dev) :=
  fun _ _ => ioWord_and_op _ _ _ _

theorem EncodedRow.doa (ac : Ac) (f : Ctl) (dev : DevCode) : EncodedRow.Statement (.doa ac f dev) :=
  fun _ _ => ioWord_and_op _ _ _ _

theorem EncodedRow.dib (ac : Ac) (f : Ctl) (dev : DevCode) : EncodedRow.Statement (.dib ac f dev) :=
  fun _ _ => ioWord_and_op _ _ _ _

theorem EncodedRow.dob (ac : Ac) (f : Ctl) (dev : DevCode) : EncodedRow.Statement (.dob ac f dev) :=
  fun _ _ => ioWord_and_op _ _ _ _

theorem EncodedRow.dic (ac : Ac) (f : Ctl) (dev : DevCode) : EncodedRow.Statement (.dic ac f dev) :=
  fun _ _ => ioWord_and_op _ _ _ _

theorem EncodedRow.doc (ac : Ac) (f : Ctl) (dev : DevCode) : EncodedRow.Statement (.doc ac f dev) :=
  fun _ _ => ioWord_and_op _ _ _ _

theorem EncodedRow.skp (ac : Ac) (t : IoTest) (dev : DevCode) : EncodedRow.Statement (.skp ac t dev) :=
  fun _ _ => ioWord_and_op _ _ _ _

end Laws

end Sys2Proof
end

