-- ==== Sys2Proof/Certificates/Slice0/Obligations.lean ====
section
/-! DEFINITION. The statements for the provers. Each says which rules of spec/ it formalises; where a clause rests on a
decision or an inference that the spec marks as its own, or on a choice of the model, it says so. -/

open Sys2Proof Sys2Proof.Machine

/-! ## Encoding (30_encoding.md) -/

/-- Decoding the word of a well-formed instruction gives it back, for every operand value, with and without MDV_PRESENT
(R70 to R75, R79, R90): no bit of an encoding is dropped. -/
def Obligations.DecodeEncodeRoundTrip : Prop :=
  ∀ (mdv : Bool) (i : Instr), i.wf mdv = true → decode mdv (encode i) = i

/-- The word of an instruction in exact arithmetic: the sum of its fields, each at its place (R72 to R75 and R90), with the
field values of R76 and R80 to R84 (the numbers of R76 and the accumulator field of LDA and STA are the spec's decisions D4
and D5). -/
def Obligations.WordIsTheSumOfItsFields : Prop :=
  ∀ i : Instr, (encode i).toNat = wordNat i

/-- Every one of the 65536 words is one well-formed instruction, and its encoding is that word (R85, R71). -/
def Obligations.EveryWordIsOneInstruction : Prop :=
  ∀ (mdv : Bool) (w : Word), (decode mdv w).wf mdv = true ∧ encode (decode mdv w) = w

/-- The decoder takes, among the opcode-table rows that match a word, the one with the most mask bits; without
MDV_PRESENT the MDV rows are not in the table (R79; its MDV part is the spec's decision D15). -/
def Obligations.DecodeTakesMostSpecificRow : Prop :=
  ∀ (mdv : Bool) (w : Word),
    (decode mdv w).row ∈ tableRows mdv ∧ (decode mdv w).row.selectedBy w = true ∧
    ∀ r ∈ tableRows mdv, r.selectedBy w = true →
      r = (decode mdv w).row ∨ maskWeight r.mask < maskWeight (decode mdv w).row.mask

/-- The words the source states literally decode as it says (95_test_vectors.md 1.5), and a few more of R89. -/
def Obligations.LiteralWordsDecode : Prop :=
  decodeTableWord 16 0o000001 = some (.jmp ⟨false, .pageZero, 1⟩) ∧
  decodeTableWord 16 0o000401 = some (.jmp ⟨false, .pcRel, 1⟩) ∧
  decodeTableWord 16 0o063077 = some (.halt .ac0 .none) ∧
  decodeTableWord 16 0o073301 = some .mul ∧
  decodeTableWord 16 0o073101 = some .div ∧
  decodeTableWord 16 0o060177 = some (.nioCpu .ac0 .start) ∧
  decodeTableWord 16 0o060277 = some (.nioCpu .ac0 .clear) ∧
  decodeTableWord 16 0o060477 = some (.reads .ac0 .none)

/-! ## The step, interrupts, run control (60_exceptions.md) -/

/-- A step of a running core is `exec` of the decoded instruction, on the state after promotion and the fetch increment
(R250 to R252), and then, unless the instruction stopped the core, the completions named for this step and the interrupt
check. It holds for the empty agenda and for an agenda whose first turn is the core's (log entry 15). -/
def Obligations.StepRunsDecodedInstruction : Prop :=
  ∀ (s : State) (i : Instr) (mid : List Completion) (rest : List Turn),
    s.run = .running → decode s.cfg.mdvPresent (s.mem.readWord s.pc) = i →
    (s.agenda = [] → step s =
      finishResult (exec i { s with ion := s.ion || s.ionp, ionp := false, pc := s.pc + 1 }) []) ∧
    (s.agenda = .core mid :: rest → step s =
      finishResult (exec i { s with ion := s.ion || s.ionp, ionp := false, pc := s.pc + 1, agenda := rest }) mid) ∧
    (∀ t : State, t.run = .running → finishResult (.next t) mid = (t.ticks mid).interruptCheck) ∧
    (∀ t : State, t.run = .stopped → finishResult (.next t) mid = .next t)

/-- While the core is stopped it executes no instruction and an interrupt request does not wake it (R27, R289). -/
def Obligations.StoppedCoreExecutesNothing : Prop :=
  ∀ s : State, s.run = .stopped → s.agenda = [] → step s = .next s

/-- INTEN followed by INTDS opens no interrupt window, whatever is requested: ION-pending is set with ION still off, ION
comes on at the top of the next step and INTDS turns it off before that step's check (R322, R251, R207, R208). -/
def Obligations.EnableThenDisableNeverInterrupts : Prop :=
  ∀ (s : State) (ac ac' : Ac), s.run = .running → s.agenda = [] → s.ion = false → s.ionp = false →
    decode s.cfg.mdvPresent (s.mem.readWord s.pc) = .nioCpu ac .start →
    decode s.cfg.mdvPresent (s.mem.readWord (s.pc + 1)) = .nioCpu ac' .clear →
    ∃ t, step s = .next t ∧ t = { s with ionp := true, pc := s.pc + 1 } ∧
      step t = .next { s with pc := s.pc + 2 }

/-- After INTEN exactly one further instruction executes before the first interrupt is taken (R251, R322): here the one
that never skips and changes nothing else, SKPDN CPU. The saved PC is the address after it (R259), the handler is the one
M[1] names directly (R262, the spec's decision D26). -/
def Obligations.InterruptTakenOneInstructionLate : Prop :=
  ∀ (s : State) (ac ac' : Ac), s.run = .running → s.agenda = [] → s.ion = false → s.ionp = false →
    s.mem.wf = true → s.cfg.hopCap ≠ some 0 → s.honoured ≠ 0#64 → (s.mem.readWord 1).getLsbD 15 = false →
    decode s.cfg.mdvPresent (s.mem.readWord s.pc) = .nioCpu ac .start →
    decode s.cfg.mdvPresent (s.mem.readWord (s.pc + 1)) = .skpdnCpu ac' →
    ∃ t u, step s = .next t ∧ t = { s with ionp := true, pc := s.pc + 1 } ∧
      step t = .next u ∧ u = { s with pc := maskAddr (s.mem.readWord 1), mem := u.mem } ∧
      u.mem.readWord 0 = zext (s.pc + 2) ∧
      ∀ k, k ≠ 0 → k ≠ 1 → u.mem.readByte k = s.mem.readByte k

/-- The end-of-instruction check takes the interrupt when ION = 1 and a request is honoured (R261): ION off, PC with bit
15 clear in cell 0, then PC from the chain whose first word is M[1], and nothing else saved or changed but the auto-index
cells of the chain (R262, R263, R145). The clauses: M[1] with bit 15 clear is the handler's address; M[1] with bit 15 set
names a cell whose word, auto-indexed if that cell is, is the handler's address when its own bit 15 is clear; a chain of
any length that ends gives the handler's address; a chain that does not end, M[1] = 0x8001 among them, stops the core with
FAULT latched, ION off, cell 0 written and PC still the interrupted address, or hangs with HOP_CAP infinite (R254, R147).
The order of the sequence is the spec's decision D26, the auto-index test D6 and D7, the stop D8. -/
def Obligations.InterruptSavesPcAndEntersHandler : Prop :=
  ∀ s : State, s.mem.wf = true → s.ion = true → s.honoured ≠ 0#64 →
    (s.cfg.hopCap ≠ some 0 → (s.mem.readWord 1).getLsbD 15 = false →
      ∃ t, s.interruptCheck = .next t ∧
        t = { s with ion := false, pc := maskAddr (s.mem.readWord 1), mem := t.mem } ∧
        t.mem.readWord 0 = zext s.pc ∧
        ∀ k, k ≠ 0 → k ≠ 1 → t.mem.readByte k = s.mem.readByte k) ∧
    (∀ (a : Addr) (w : Word), s.cfg.hopCap ≠ some 0 → s.cfg.hopCap ≠ some 1 →
      (s.mem.readWord 1).getLsbD 15 = true → maskAddr (s.mem.readWord 1) = a → a ≠ 0 →
      (s.mem.readWord a).getLsbD 15 = false →
      w = (if 0o20 ≤ a.toNat ∧ a.toNat ≤ 0o27 then s.mem.readWord a + 1
        else if 0o30 ≤ a.toNat ∧ a.toNat ≤ 0o37 then s.mem.readWord a - 1 else s.mem.readWord a) →
      ∃ t, s.interruptCheck = .next t ∧ t = { s with ion := false, pc := maskAddr w, mem := t.mem } ∧
        t.mem.readWord 0 = zext s.pc ∧ t.mem.readWord a = w ∧
        ∀ k, k ≠ 0 → k ≠ 1 → k ≠ loCell a → k ≠ hiCell a → t.mem.readByte k = s.mem.readByte k) ∧
    (∀ (e : Addr) (m' : Memory), (s.write 0 (zext s.pc)).followChain 1 = .ends e m' →
      s.interruptCheck = .next { s with ion := false, pc := e, mem := m' } ∧ m'.readWord 0 = zext s.pc ∧
        ∀ k, k ≠ 0 → k ≠ 1 → k < 32 ∨ 64 ≤ k → m'.readByte k = s.mem.readByte k) ∧
    (∀ m' : Memory, (s.write 0 (zext s.pc)).followChain 1 = .loops m' →
      (s.cfg.hopCap ≠ none → s.interruptCheck =
        .next { s with ion := false, mem := m', latch := .indirectLoop, run := .stopped }) ∧
      (s.cfg.hopCap = none → s.interruptCheck = .fault .indirectHang) ∧ m'.readWord 0 = zext s.pc ∧
        ∀ k, k ≠ 0 → k ≠ 1 → k < 32 ∨ 64 ≤ k → m'.readByte k = s.mem.readByte k) ∧
    (s.cfg.hopCap ≠ none → s.mem.readWord 1 = 0x8001#16 →
      ∃ t, s.interruptCheck = .next t ∧
        t = { s with ion := false, mem := t.mem, latch := .indirectLoop, run := .stopped } ∧
        t.mem.readWord 0 = zext s.pc ∧ ∀ k, k ≠ 0 → k ≠ 1 → t.mem.readByte k = s.mem.readByte k)

/-- With ION = 0, or no honoured request, the check takes no interrupt and changes nothing (R261, R256). -/
def Obligations.NoInterruptUnlessEnabledAndHonoured : Prop :=
  ∀ s : State, s.ion = false ∨ s.req &&& ~~~s.dis = 0#64 → s.interruptCheck = .next s

/-- Return from interrupt: JMP @0 goes to the PC that the interrupt sequence saved in cell 0 (R264, which the spec marks as
its own derivation, D32). -/
def Obligations.JumpThroughCellZeroReturns : Prop :=
  ∀ (s : State) (a : Addr), s.cfg.hopCap ≠ some 0 → s.mem.readWord 0 = zext a →
    exec (.jmp ⟨true, .pageZero, 0⟩) s = .next { s with pc := a }

/-- The invariant holds at reset: memory lists nothing (R29), every controller is Idle (R39) and REQ, DIS, ION and
ION-pending are 0 (R39; that they are 0 is the spec's decision D17, R40). That the device table is one that R6 admits is a
fact about the model's own choices: the list of devices at reset and MDV_PRESENT (log entries 2 and 3). -/
def Obligations.ResetSatisfiesInv : Prop := State.reset.Inv

/-- Every step keeps the invariant: canonical memory, an admissible device table, a request bit exactly for the Done
controllers (R35), never ION and ION-pending together (R36), DIS a function of one mask (R31). -/
def Obligations.StepKeepsInv : Prop :=
  ∀ s t : State, s.Inv → step s = .next t → t.Inv

/-- No step changes which controllers are installed, each with its code, kind and priority (R33, R34: fixed when the machine
is created; DEVICES of R6), or the other parameters of R6, which the model holds in `cfg` (log entry 1). -/
def Obligations.StepKeepsInstalledDevices : Prop :=
  ∀ s t : State, step s = .next t → t.cfg = s.cfg ∧ tableKey t.devices = tableKey s.devices

/-- From every state that meets the invariant the machine has a next state, exactly but where the spec refuses: with a
finite HOP_CAP every step ends (R284, R253), but for an instruction step at a DOCS or DOCP to MDV with AC other than 2 (R234,
the spec's decision D15) and for a ProgramLoad while stopped without a blob (R317, D24). A device's turn, a stopped core's
turn and every other console request always have a next state. -/
def Obligations.EveryStepCompletes : Prop :=
  ∀ s : State, s.Inv → s.cfg.hopCap ≠ none →
    ((∃ t, step s = .next t) ↔
      (s.executesNext = true → ∀ ac pulse, decode s.cfg.mdvPresent (s.mem.readWord s.pc) ≠ .docMdv ac pulse) ∧
      (s.loadsNext = true → s.cfg.bootBlob ≠ none))

/-! ## What instructions leave alone -/

/-- No instruction outside the memory-reference class writes memory (R55, R50). -/
def Obligations.OnlyMemoryReferencesWriteMemory : Prop :=
  ∀ (i : Instr) (s t : State), isMemRef i = false → exec i s = .next t → t.mem = s.mem

/-- Carry is read and written by the ALC class and DIV alone (R22): run with the other carry, every other instruction
does the same and leaves that carry (that MUL leaves C is the spec's decision D15). -/
def Obligations.CarryReachesOnlyAlcAndDiv : Prop :=
  ∀ (i : Instr) (s : State) (b : Bool), isAlc i = false → i ≠ .div →
    exec i { s with carry := b } = onNext (fun t => { t with carry := b }) (exec i s)

/-- No instruction turns ION on in its execute phase, and none but the CPU-device instructions with a control function
changes ION or ION-pending (R23, R24). -/
def Obligations.EnableFlagsBelongToCpuDevice : Prop :=
  ∀ (i : Instr) (s t : State), exec i s = .next t →
    (t.ion = true → s.ion = true) ∧ (isCpuControl i = false → t.ion = s.ion ∧ t.ionp = s.ionp)

/-- An instruction writes no accumulator but those the table of R20 gives it (for the words to the CPU device and to MDV that
load nothing these are the spec's decisions D14 and D15). -/
def Obligations.AccumulatorsWrittenAsTabled : Prop :=
  ∀ (i : Instr) (s t : State) (j : Ac), exec i s = .next t → mayWrite i j = false → t.ac j = s.ac j

/-- Every instruction but JMP and JSR leaves PC where the fetch left it or one further: there are no control transfers but
JMP, JSR and skips, and no skip passes more than one word (R155). -/
def Obligations.OnlyJumpsLeaveTheSequence : Prop :=
  ∀ (i : Instr) (s t : State), (∀ m, i ≠ .jmp m) → (∀ m, i ≠ .jsr m) → exec i s = .next t →
    t.pc = s.pc ∨ t.pc = s.pc + 1

/-- No instruction writes the switch register (R25), the parameters, the console's reply or the agenda; DIS is written by
MSKO and IORST alone (R31); the controllers and REQ by the I/O instructions to device codes and IORST alone; RUN by HALT
and the memory references alone, and FAULT by the memory references alone (R27, R28); the halt signal by HALT alone. -/
def Obligations.SystemStateWrittenAsTabled : Prop :=
  ∀ (i : Instr) (s t : State), exec i s = .next t →
    t.sr = s.sr ∧ t.cfg = s.cfg ∧ t.reply = s.reply ∧ t.agenda = s.agenda ∧
    ((∀ ac f, i ≠ .msko ac f) → (∀ ac f, i ≠ .iorst ac f) → t.dis = s.dis) ∧
    (isDeviceIo i = false → t.devices = s.devices ∧ t.req = s.req) ∧
    ((∀ ac f, i ≠ .halt ac f) → t.haltSignal = s.haltSignal) ∧
    ((∀ ac f, i ≠ .halt ac f) → isMemRef i = false → t.run = s.run) ∧
    (isMemRef i = false → t.latch = s.latch)

/-! ## ALC (40_alc.md) -/

/-- COM, NEG, MOV, INC: result, carry, skip and frame in exact arithmetic, for every option and whatever accumulators are
named. The function values are R110 to R113, which the spec supplies from general knowledge (D2); the seeded sum is R103
(D3); shift, load and skip are R104 to R108. -/
def Obligations.UnaryAlcResults : Prop :=
  ∀ (a : AlcFields) (s : State),
    exec (.com a) s = .next (s.afterAlc a (65535 - (s.ac a.acs).toNat)) ∧
    exec (.neg a) s = .next (s.afterAlc a (65536 - (s.ac a.acs).toNat)) ∧
    exec (.mov a) s = .next (s.afterAlc a (s.ac a.acs).toNat) ∧
    exec (.inc a) s = .next (s.afterAlc a ((s.ac a.acs).toNat + 1))

/-- ADC, SUB, ADD, AND: result, carry, skip and frame in exact arithmetic, for every option and whatever accumulators are
named, with both operands read before the write (R101). The function values are R114 to R117, which the spec supplies from
general knowledge (D2, log entry 19); that a carry out of bit 15 complements the selected carry is the seeded sum of R103, the
spec's decision D3 (log entry 20); shift, load and skip are R104 to R108. -/
def Obligations.BinaryAlcResults : Prop :=
  ∀ (a : AlcFields) (s : State),
    exec (.adc a) s = .next (s.afterAlc a ((s.ac a.acd).toNat + (65535 - (s.ac a.acs).toNat))) ∧
    exec (.sub a) s = .next (s.afterAlc a ((s.ac a.acd).toNat + (65536 - (s.ac a.acs).toNat))) ∧
    exec (.add a) s = .next (s.afterAlc a ((s.ac a.acd).toNat + (s.ac a.acs).toNat)) ∧
    exec (.and a) s = .next (s.afterAlc a ((s.ac a.acd).toNat &&& (s.ac a.acs).toNat))

/-- The shifter, bit by bit: left and right rotate the 17 bits by one place through bit 16, S swaps the bytes and leaves bit
16 (R104 to R106). -/
def Obligations.ShifterRotatesThroughCarry : Prop :=
  ∀ t : Alu,
    (∀ k, k < 16 → (shifted .left t).getLsbD (k + 1) = t.getLsbD k) ∧
    (shifted .left t).getLsbD 0 = t.getLsbD 16 ∧
    (∀ k, k < 16 → (shifted .right t).getLsbD k = t.getLsbD (k + 1)) ∧
    (shifted .right t).getLsbD 16 = t.getLsbD 0 ∧
    (∀ k, k < 8 → (shifted .swap t).getLsbD k = t.getLsbD (k + 8)) ∧
    (∀ k, k < 8 → (shifted .swap t).getLsbD (k + 8) = t.getLsbD k) ∧
    (shifted .swap t).getLsbD 16 = t.getLsbD 16 ∧
    shifted .none t = t

/-- The skip sensor: for each SKIP code, when an ALC instruction adds one more to PC, from the carry candidate `cc` and the
result `r` of its data path, whether or not they are loaded (R107). -/
def Obligations.SkipFollowsCandidateAndResult : Prop :=
  ∀ (i : Instr) (fn : Word → Word → Alu) (a : AlcFields) (s : State) (cc : Bool) (r : Word),
    (i, fn) ∈ [(Instr.com a, fCom), (Instr.neg a, fNeg), (Instr.mov a, fMov), (Instr.inc a, fInc),
      (Instr.adc a, fAdc), (Instr.sub a, fSub), (Instr.add a, fAdd), (Instr.and a, fAnd)] →
    carryOf (s.alcValue fn a) = cc → resultOf (s.alcValue fn a) = r →
    ∃ t, exec i s = .next t ∧
      (a.sk = .never → t.pc = s.pc) ∧
      (a.sk = .skp → t.pc = s.pc + 1) ∧
      (a.sk = .szc → t.pc = if cc = false then s.pc + 1 else s.pc) ∧
      (a.sk = .snc → t.pc = if cc = true then s.pc + 1 else s.pc) ∧
      (a.sk = .szr → t.pc = if r = 0 then s.pc + 1 else s.pc) ∧
      (a.sk = .snr → t.pc = if r ≠ 0 then s.pc + 1 else s.pc) ∧
      (a.sk = .sez → t.pc = if cc = false ∨ r = 0 then s.pc + 1 else s.pc) ∧
      (a.sk = .sbn → t.pc = if cc = true ∧ r ≠ 0 then s.pc + 1 else s.pc)

/-- NO-LOAD: an ALC instruction with NL = 1 changes nothing but PC; with NL = 0 it writes the result to AC[ACD] and the
carry candidate to C (R108). -/
def Obligations.NoLoadDiscardsResultAndCarry : Prop :=
  ∀ (i : Instr) (fn : Word → Word → Alu) (a : AlcFields) (s : State),
    (i, fn) ∈ [(Instr.com a, fCom), (Instr.neg a, fNeg), (Instr.mov a, fMov), (Instr.inc a, fInc),
      (Instr.adc a, fAdc), (Instr.sub a, fSub), (Instr.add a, fAdd), (Instr.and a, fAnd)] →
    ∃ t, exec i s = .next t ∧
      (a.nl = true → t = { s with pc := t.pc }) ∧
      (a.nl = false → t = { s with
        acs := s.acs.set a.acd (resultOf (s.alcValue fn a)), carry := carryOf (s.alcValue fn a), pc := t.pc })

/-- MOV with no shift selects the carry: unchanged with CY = 0, 0 with Z, 1 with O, the complement with C (R102, R112, the
latter from general knowledge, D2; 90_conflicts.md C2 reads the source's round-trip property this way). -/
def Obligations.MovSelectsCarry : Prop :=
  ∀ (acs acd : Ac) (cy : CarrySel) (s : State),
    exec (.mov ⟨acs, acd, .none, cy, false, .never⟩) s = .next { s with
      acs := s.acs.set acd (s.ac acs),
      carry := match cy with
        | .prev => s.carry
        | .zero => false
        | .one => true
        | .comp => !s.carry }

/-- Unsigned comparisons from the carry: SUBZ# and ADCZ# with SZC and SNC skip on d < s, d >= s, d > s, d <= s and change
nothing but PC (R119, which the spec marks as derived; it rests on D2 and D3). -/
def Obligations.CarryComparesUnsigned : Prop :=
  ∀ (x y : Ac) (s : State),
    exec (.sub ⟨x, y, .none, .zero, true, .szc⟩) s =
      .next { s with pc := if (s.ac y).toNat < (s.ac x).toNat then s.pc + 1 else s.pc } ∧
    exec (.sub ⟨x, y, .none, .zero, true, .snc⟩) s =
      .next { s with pc := if (s.ac x).toNat ≤ (s.ac y).toNat then s.pc + 1 else s.pc } ∧
    exec (.adc ⟨x, y, .none, .zero, true, .snc⟩) s =
      .next { s with pc := if (s.ac x).toNat < (s.ac y).toNat then s.pc + 1 else s.pc } ∧
    exec (.adc ⟨x, y, .none, .zero, true, .szc⟩) s =
      .next { s with pc := if (s.ac y).toNat ≤ (s.ac x).toNat then s.pc + 1 else s.pc }

/-- Seventeen rotations left, or seventeen right, restore the pair of carry and word; two byte swaps restore it; left and
right undo each other (R120, which the spec marks as derived). -/
def Obligations.RotationsComeBack : Prop :=
  ∀ t : Alu,
    (shifted .left)^[17] t = t ∧ (shifted .right)^[17] t = t ∧ shifted .swap (shifted .swap t) = t ∧
    shifted .right (shifted .left t) = t ∧ shifted .left (shifted .right t) = t

/-! ## Memory reference (41_memref.md) -/

/-- The mode address, masked, in exact arithmetic: page zero is the unsigned displacement, the relative modes are the
instruction's own address, AC2 or AC3 plus the signed displacement, modulo 2^15; a direct reference takes it as the effective
address and no memory is read or written (R141, R142, R143 with I = 0, R146). PC holds the instruction's address plus one. -/
def Obligations.ModeAddressArithmetic : Prop :=
  ∀ (s : State) (m : EaFields),
    ((maskAddr (s.modeAddress m)).toNat : Int) = modeAddressNat s m ∧
    (m.ind = false → s.resolve m = .ends (maskAddr (s.modeAddress m)) s.mem)

/-- One indirect hop that ends the chain, from a cell that is not auto-indexed: the effective address is the low 15 bits of
the word, and nothing is written (R143, R146). From an auto-increment or auto-decrement cell the cell is changed by one
modulo 2^16, the changed word is the address, and every other byte stays (R145, R143). That bit 15 is tested on the word as
loaded and the range on the masked address are the spec's decisions D6 and D7. A hop whose loaded word has bit 15 set goes
on, with one hop fewer left, from the low 15 bits of the word, in an auto-index cell of the changed word (R143, R144), whatever
bit 15 of that is. A chain of exactly HOP_CAP hops that ends is completed, and one hop more is IndirectLoop, in which the
instruction does not perform its operation (R147, D8). -/
def Obligations.LastHopUsesOrAutoIndexesTheCell : Prop :=
  (∀ (s : State) (m : EaFields) (a : Addr), m.ind = true → s.cfg.hopCap ≠ some 0 → s.mem.wf = true →
    (s.mem.readWord a).getLsbD 15 = false → maskAddr (s.modeAddress m) = a →
    (a.toNat < 0o20 ∨ 0o37 < a.toNat → s.resolve m = .ends (maskAddr (s.mem.readWord a)) s.mem) ∧
    (0o20 ≤ a.toNat → a.toNat ≤ 0o27 →
      ∃ m', s.resolve m = .ends (maskAddr (s.mem.readWord a + 1)) m' ∧ m'.readWord a = s.mem.readWord a + 1 ∧
        ∀ k, k ≠ loCell a → k ≠ hiCell a → m'.readByte k = s.mem.readByte k) ∧
    (0o30 ≤ a.toNat → a.toNat ≤ 0o37 →
      ∃ m', s.resolve m = .ends (maskAddr (s.mem.readWord a - 1)) m' ∧ m'.readWord a = s.mem.readWord a - 1 ∧
        ∀ k, k ≠ loCell a → k ≠ hiCell a → m'.readByte k = s.mem.readByte k)) ∧
  (∀ (s : State) (m : EaFields) (n : Nat), m.ind = true → s.cfg.hopCap = some n →
    s.resolve m = chase n s.mem (maskAddr (s.modeAddress m))) ∧
  (∀ (n : Nat) (mem : Memory) (a : Addr), mem.wf = true → (mem.readWord a).getLsbD 15 = true →
    (a.toNat < 0o20 ∨ 0o37 < a.toNat → chase (n + 1) mem a = chase n mem (maskAddr (mem.readWord a))) ∧
    (0o20 ≤ a.toNat → a.toNat ≤ 0o27 →
      ∃ m', chase (n + 1) mem a = chase n m' (maskAddr (mem.readWord a + 1)) ∧ m'.readWord a = mem.readWord a + 1 ∧
        ∀ k, k ≠ loCell a → k ≠ hiCell a → m'.readByte k = mem.readByte k) ∧
    (0o30 ≤ a.toNat → a.toNat ≤ 0o37 →
      ∃ m', chase (n + 1) mem a = chase n m' (maskAddr (mem.readWord a - 1)) ∧ m'.readWord a = mem.readWord a - 1 ∧
        ∀ k, k ≠ loCell a → k ≠ hiCell a → m'.readByte k = mem.readByte k)) ∧
  (∀ (s : State) (m : EaFields) (n : Nat) (cell : Nat → Addr), m.ind = true → maskAddr (s.modeAddress m) = cell 0 →
    (∀ k, k ≤ n → (cell k).toNat < 0o20 ∨ 0o37 < (cell k).toNat) →
    (∀ k, k < n → s.mem.readWord (cell k) = 0x8000#16 ||| zext (cell (k + 1))) →
    (s.mem.readWord (cell n)).getLsbD 15 = false →
    (s.cfg.hopCap = some (n + 1) → s.resolve m = .ends (maskAddr (s.mem.readWord (cell n))) s.mem) ∧
    (s.cfg.hopCap = some n → ∀ (ac : Ac) (i : Instr),
      i ∈ [Instr.jmp m, Instr.jsr m, Instr.isz m, Instr.dsz m, Instr.lda ac m, Instr.sta ac m] →
      exec i s = .next { s with latch := .indirectLoop, run := .stopped }))

/-- A chain, of any length and however it comes out, writes no byte outside the cells 0o20..0o37 (R145, R148, R57): the
bytes of those words are 32..63. -/
def Obligations.ChainsWriteOnlyAutoIndexCells : Prop :=
  ∀ (s : State) (m : EaFields) (k : Nat), s.mem.wf = true → k < 32 ∨ 64 ≤ k →
    (s.resolve m).memory.readByte k = s.mem.readByte k

/-- A word with bit 15 set that points at itself is a chain without end: whatever finite HOP_CAP is, JMP, JSR, ISZ, DSZ, LDA
and STA through it latch IndirectLoop and stop the core, and nothing else changes (R147, R325, the spec's decision D8); with
HOP_CAP infinite they hang (R147). -/
def Obligations.EndlessChainStopsTheCore : Prop :=
  ∀ (i : Instr) (ac : Ac) (m : EaFields) (s : State) (a : Addr),
    i ∈ [Instr.jmp m, Instr.jsr m, Instr.isz m, Instr.dsz m, Instr.lda ac m, Instr.sta ac m] →
    m.ind = true → maskAddr (s.modeAddress m) = a → a.toNat < 0o20 ∨ 0o37 < a.toNat →
    s.mem.readWord a = 0x8000#16 ||| zext a →
    (s.cfg.hopCap ≠ none → exec i s = .next { s with latch := .indirectLoop, run := .stopped }) ∧
    (s.cfg.hopCap = none → exec i s = .fault .indirectHang)

/-- JMP, JSR and LDA where the address resolution ends: PC, AC3 and PC, or the accumulator written; memory is as the hops
left it and nothing else changes (R149, R150, R153). -/
def Obligations.JumpsAndLoads : Prop :=
  ∀ (ac : Ac) (m : EaFields) (s : State) (e : Addr) (m' : Memory), s.resolve m = .ends e m' →
    exec (.jmp m) s = .next { s with mem := m', pc := e } ∧
    exec (.jsr m) s = .next { s with mem := m', acs := s.acs.set .ac3 (zext s.pc), pc := e } ∧
    exec (.lda ac m) s = .next { s with mem := m', acs := s.acs.set ac (m'.readWord e) }

/-- JSR computes its address before it writes AC3: relative to AC3 it jumps from the old AC3 (R150). -/
def Obligations.JsrJumpsFromTheOldAc3 : Prop :=
  ∀ (disp : BitVec 8) (s : State), ∃ t, exec (.jsr ⟨false, .ac3Rel, disp⟩) s = .next t ∧
    (t.pc.toNat : Int) = (((s.ac .ac3).toNat : Int) + disp.toInt) % 32768 ∧
    (t.ac .ac3).toNat = s.pc.toNat ∧
    t = { s with acs := { s.acs with ac3 := t.ac .ac3 }, pc := t.pc }

/-- STA stores the whole accumulator at the effective address the resolution came to and changes no other byte that the
hops left, and nothing else (R154). -/
def Obligations.StaStoresTheAccumulator : Prop :=
  ∀ (ac : Ac) (m : EaFields) (s : State) (e : Addr) (m' : Memory), s.mem.wf = true → s.resolve m = .ends e m' →
    ∃ t, exec (.sta ac m) s = .next t ∧ t = { s with mem := t.mem } ∧ t.mem.readWord e = s.ac ac ∧
      ∀ k, k ≠ loCell e → k ≠ hiCell e → t.mem.readByte k = m'.readByte k

/-- ISZ and DSZ change the word at the effective address by one modulo 2^16 and skip when it becomes 0; no other byte that
the hops left changes, and nothing else but PC (R151, R152). -/
def Obligations.IszDszCountAndSkip : Prop :=
  ∀ (m : EaFields) (s : State) (e : Addr) (m' : Memory), s.mem.wf = true → s.resolve m = .ends e m' →
    (∃ t, exec (.isz m) s = .next t ∧ t = { s with mem := t.mem, pc := t.pc } ∧
      (t.mem.readWord e).toNat = ((m'.readWord e).toNat + 1) % 65536 ∧
      t.pc = (if (m'.readWord e).toNat = 65535 then s.pc + 1 else s.pc) ∧
      ∀ k, k ≠ loCell e → k ≠ hiCell e → t.mem.readByte k = m'.readByte k) ∧
    (∃ t, exec (.dsz m) s = .next t ∧ t = { s with mem := t.mem, pc := t.pc } ∧
      (t.mem.readWord e).toNat = ((m'.readWord e).toNat + 65535) % 65536 ∧
      t.pc = (if (m'.readWord e).toNat = 1 then s.pc + 1 else s.pc) ∧
      ∀ k, k ≠ loCell e → k ≠ hiCell e → t.mem.readByte k = m'.readByte k)

/-! ## I/O to controllers (42_io.md, 60_exceptions.md section 4) -/

/-- DOB and DOC to an installed controller discard the data and apply the control field: S makes it Busy and C makes it
Idle, each dropping its request bit, and P and no control change nothing. Every other controller, every other request bit
and all other state stay (R181, R183, R271, R272; that P does nothing is R273, the spec's decision D16). -/
def Obligations.ControlFieldStartsAndClears : Prop :=
  ∀ (ac : Ac) (d : DevCode) (c : Controller) (s : State), s.dev d = some c →
    exec (.dob ac .none d) s = .next s ∧ exec (.doc ac .none d) s = .next s ∧
    exec (.dob ac .pulse d) s = .next s ∧ exec (.doc ac .pulse d) s = .next s ∧
    ∀ f st, (f, st) ∈ [(Ctl.start, DevState.busy), (Ctl.clear, DevState.idle)] →
      ∃ t, exec (.dob ac f d) s = .next t ∧ exec (.doc ac f d) s = .next t ∧
        t = { s with devices := t.devices, req := t.req } ∧
        t.dev d = some { c with st := st } ∧ t.req.getLsbD d.toNat = false ∧
        ∀ d' : DevCode, d' ≠ d → t.dev d' = s.dev d' ∧ t.req.getLsbD d'.toNat = s.req.getLsbD d'.toNat

/-- NIO, DIB and DIC to an installed controller leave a free value in the accumulator, whichever it is (R174, the spec's
decision D11), and then apply the control field as DOB does (R172, R177, R180, R182). -/
def Obligations.InputsWithoutDataTakeAFreeValue : Prop :=
  ∀ (ac : Ac) (f : Ctl) (d : DevCode) (c : Controller) (s : State), s.dev d = some c →
    ∃ t, exec (.dob ac f d) { s with
        acs := s.acs.set ac (Sys2Proof.Config.freeWord s.draws), draws := s.draws + 1 } = .next t ∧
      exec (.nio ac f d) s = .next t ∧ exec (.dib ac f d) s = .next t ∧ exec (.dic ac f d) s = .next t

/-- DIA takes a reader's last input word, which stays in the buffer, and then applies the control field (R172, R178); from
a controller that is not a reader the word is a free value (R174, D11). -/
def Obligations.DiaReadsTheInputWord : Prop :=
  ∀ (ac : Ac) (f : Ctl) (d : DevCode) (c : Controller) (s : State), s.dev d = some c →
    (∀ w attached, c.unit = .reader w attached →
      ∃ t, exec (.dob ac f d) { s with acs := s.acs.set ac w } = .next t ∧ exec (.dia ac f d) s = .next t) ∧
    ((∀ w attached, c.unit ≠ .reader w attached) →
      ∃ t, exec (.dob ac f d) { s with
          acs := s.acs.set ac (Sys2Proof.Config.freeWord s.draws), draws := s.draws + 1 } = .next t ∧
        exec (.dia ac f d) s = .next t)

/-- DOA latches: a writer takes the accumulator, the clock its two low bits, a reader discards it; then the control field
applies, to the new data: S makes the controller Busy and C makes it Idle, each dropping its request bit, and P and no control
leave its state and its request bit (R176, R271, R272; that P does nothing is R273, the spec's decision D16, log entry 34). The
accumulator, all other controllers and all other request bits stay (R172, R173, R179). -/
def Obligations.DoaLatchesTheOutputWord : Prop :=
  ∀ (ac : Ac) (f : Ctl) (d : DevCode) (c : Controller) (s : State), s.dev d = some c →
    ∃ t, exec (.doa ac f d) s = .next t ∧ t = { s with devices := t.devices, req := t.req } ∧
      t.dev d = some { c with
        unit := match c.unit with
          | .reader w attached => .reader w attached
          | .writer _ attached sent => .writer (s.ac ac) attached sent
          | .rtc _ => .rtc ((s.ac ac).extractLsb' 0 2),
        st := match f with
          | .none => c.st
          | .start => .busy
          | .clear => .idle
          | .pulse => c.st } ∧
      t.req.getLsbD d.toNat = (match f with
        | .none => s.req.getLsbD d.toNat
        | .start => false
        | .clear => false
        | .pulse => s.req.getLsbD d.toNat) ∧
      ∀ d' : DevCode, d' ≠ d → t.dev d' = s.dev d' ∧ t.req.getLsbD d'.toNat = s.req.getLsbD d'.toNat

/-- A device code with no controller: input and output operations are ignored, no accumulator is written, SKPBZ and SKPDZ
skip, SKPBN and SKPDN do not (R184). -/
def Obligations.AbsentDeviceIsIgnored : Prop :=
  ∀ (ac : Ac) (f : Ctl) (d : DevCode) (s : State), s.dev d = none →
    (∀ i ∈ [Instr.nio ac f d, Instr.dia ac f d, Instr.doa ac f d, Instr.dib ac f d, Instr.dob ac f d,
      Instr.dic ac f d, Instr.doc ac f d], exec i s = .next s) ∧
    exec (.skp ac .bn d) s = .next s ∧ exec (.skp ac .bz d) s = .next { s with pc := s.pc + 1 } ∧
    exec (.skp ac .dn d) s = .next s ∧ exec (.skp ac .dz d) s = .next { s with pc := s.pc + 1 }

/-- SKP to an installed controller: BN skips when Busy, BZ when not Busy, DN when Done, DZ when not Done, and nothing but PC
changes (R185). -/
def Obligations.SkpTestsBusyAndDone : Prop :=
  ∀ (ac : Ac) (d : DevCode) (c : Controller) (s : State), s.dev d = some c →
    exec (.skp ac .bn d) s = .next { s with pc := if c.st = .busy then s.pc + 1 else s.pc } ∧
    exec (.skp ac .bz d) s = .next { s with pc := if c.st ≠ .busy then s.pc + 1 else s.pc } ∧
    exec (.skp ac .dn d) s = .next { s with pc := if c.st = .done then s.pc + 1 else s.pc } ∧
    exec (.skp ac .dz d) s = .next { s with pc := if c.st ≠ .done then s.pc + 1 else s.pc }

/-- A completion tick of a Busy controller: a reader with a stream takes the byte, zero-extended (the spec's decision D20),
and keeps its word at EOF; a writer's low byte goes to its stream; without a stream neither happens (D21); the clock has no
physical action (R277). The controller becomes Done and its request bit is set, whatever DIS says (R274); on a stream error
it becomes Idle with no request (R278, D29). A tick of a controller that is not Busy, or of no controller, does nothing. -/
def Obligations.CompletionMakesDoneAndRequests : Prop :=
  ∀ (s : State) (d : DevCode) (ans : StreamAnswer),
    (s.dev d = none → s.tick ⟨d, ans⟩ = s) ∧
    (∀ c, s.dev d = some c → c.st ≠ .busy → s.tick ⟨d, ans⟩ = s) ∧
    (∀ c, s.dev d = some c → c.st = .busy → ∃ t c', s.tick ⟨d, ans⟩ = t ∧
      t = { s with devices := t.devices, req := t.req } ∧ t.dev d = some c' ∧
      c' = (match c.unit, ans with
        | .reader _ true, .byte b => { c with st := .done, unit := .reader (b.setWidth 16) true }
        | .reader _ true, .eof => { c with st := .done }
        | .reader _ true, .error => { c with st := .idle }
        | .reader _ false, _ => { c with st := .done }
        | .writer w true sent, .byte _ => { c with st := .done, unit := .writer w true (sent ++ [w.extractLsb' 0 8]) }
        | .writer w true sent, .eof => { c with st := .done, unit := .writer w true (sent ++ [w.extractLsb' 0 8]) }
        | .writer _ true _, .error => { c with st := .idle }
        | .writer _ false _, _ => { c with st := .done }
        | .rtc _, _ => { c with st := .done }) ∧
      (t.req.getLsbD d.toNat = true ↔ c'.st = .done) ∧
      ∀ d' : DevCode, d' ≠ d → t.dev d' = s.dev d' ∧ t.req.getLsbD d'.toNat = s.req.getLsbD d'.toNat)

/-! ## The CPU pseudo-device (43_cpu_device.md) -/

/-- NIO and DOA to device 0o77 have the control field's effect alone: S sets ION-pending if ION is off, C clears ION and
ION-pending, P and no control do nothing (R200, R204, R207, R208, R213). -/
def Obligations.CpuControlField : Prop :=
  ∀ (ac : Ac) (s : State) (i : Ctl → Instr), i = (fun f => Instr.nioCpu ac f) ∨ i = (fun f => Instr.doaCpu ac f) →
    exec (i .none) s = .next s ∧ exec (i .pulse) s = .next s ∧
    exec (i .start) s = .next { s with ionp := if s.ion = false then true else s.ionp } ∧
    exec (i .clear) s = .next { s with ion := false, ionp := false }

/-- READS copies the switch register to the accumulator and then applies the control field as NIO CPU does (R201; the order
is R211, the spec's decision D12). -/
def Obligations.ReadsCopiesTheSwitches : Prop :=
  ∀ (ac : Ac) (f : Ctl) (s : State), ∃ t,
    exec (.nioCpu ac f) { s with acs := s.acs.set ac s.sr } = .next t ∧ exec (.reads ac f) s = .next t

/-- INTA answers the lowest device code whose request is honoured, zero-extended, or 0 if none is, and changes neither REQ
nor DIS nor a controller; then the control field applies (R202; that the code is zero-extended is the spec's decision D30, log
entry 31; the order is R211, the spec's decision D12, log entry 26). -/
def Obligations.IntaAnswersTheLowestHonouredCode : Prop :=
  ∀ (ac : Ac) (f : Ctl) (s : State), ∃ t w,
    exec (.nioCpu ac f) { s with acs := s.acs.set ac w } = .next t ∧ exec (.inta ac f) s = .next t ∧
    ((∀ d : DevCode, (s.req.getLsbD d.toNat && !s.dis.getLsbD d.toNat) = false) → w = 0) ∧
    (∀ d : DevCode, s.req.getLsbD d.toNat = true → s.dis.getLsbD d.toNat = false →
      (∀ d' : DevCode, d'.toNat < d.toNat → (s.req.getLsbD d'.toNat && !s.dis.getLsbD d'.toNat) = false) →
      w.toNat = d.toNat)

/-- MSKO replaces the whole disable set: a code's bit is set exactly when an installed controller there has its priority's
mask bit set in the accumulator (R203; MASK_BIT is a parameter, D9); then the control field applies. A table with two
controllers of one priority is refused (R328, D10). -/
def Obligations.MskoReplacesTheDisableSet : Prop :=
  ∀ (ac : Ac) (f : Ctl) (s : State),
    ((s.devices.map fun c => c.priority).Nodup → ∃ t x,
      exec (.nioCpu ac f) { s with dis := x } = .next t ∧ exec (.msko ac f) s = .next t ∧
      ∀ d : DevCode, (x.getLsbD d.toNat = true ↔
        ∃ c ∈ s.devices, c.code = d ∧ (s.ac ac).getLsbD (s.cfg.maskBit[c.priority]).val = true)) ∧
    (¬ (s.devices.map fun c => c.priority).Nodup → exec (.msko ac f) s = .refused .priorityCollision)

/-- IORST makes every controller Idle with its buffers kept and clears REQ, DIS, ION and ION-pending (R205, R276; that
ION-pending is cleared is the spec's decision D19, log entry 28), and then applies the control field, so that F = S ends with
ION-pending set (that F applies to IORST, and after the reset, is R211, the spec's decision D12, log entry 26). -/
def Obligations.IorstResetsDevicesAndInterrupts : Prop :=
  ∀ (ac : Ac) (f : Ctl) (s : State), ∃ t, exec (.iorst ac f) s = .next t ∧
    t = { s with
      devices := t.devices, req := 0, dis := 0, ion := false,
      ionp := match f with
        | .none => false
        | .start => true
        | .clear => false
        | .pulse => false } ∧
    ∀ d, t.dev d = (s.dev d).map fun c => { c with st := .idle }

/-- HALT applies its control field (the spec's decision D12), stops the core and publishes the halt signal; PC is as the fetch
left it (R206). -/
def Obligations.HaltStopsTheCore : Prop :=
  ∀ (ac : Ac) (f : Ctl) (s : State), ∃ t, exec (.nioCpu ac f) s = .next t ∧
    exec (.halt ac f) s = .next { t with run := .stopped, haltSignal := true }

/-- A step that executes a HALT ends there: no interrupt is taken, whatever is requested, and PC is the address of the HALT
plus one (R206, R250; the spec's decision D13). -/
def Obligations.HaltTakesNoInterrupt : Prop :=
  ∀ (s : State) (ac : Ac), s.run = .running → s.agenda = [] →
    decode s.cfg.mdvPresent (s.mem.readWord s.pc) = .halt ac .none →
    step s = .next { s with
      ion := s.ion || s.ionp, ionp := false, pc := s.pc + 1, run := .stopped, haltSignal := true }

/-- SKP on device 0o77: BN skips if ION = 1, BZ if ION = 0, DN never, DZ always; nothing but PC changes (R209). -/
def Obligations.SkpCpuTestsIon : Prop :=
  ∀ (ac : Ac) (s : State),
    exec (.skpbnCpu ac) s = .next { s with pc := if s.ion = true then s.pc + 1 else s.pc } ∧
    exec (.skpbzCpu ac) s = .next { s with pc := if s.ion = false then s.pc + 1 else s.pc } ∧
    exec (.skpdnCpu ac) s = .next s ∧
    exec (.skpdzCpu ac) s = .next { s with pc := s.pc + 1 }

/-! ## The multiply/divide unit (44_mdv.md) -/

/-- MUL: the high and low halves written to AC0 and AC1 are, as one 32-bit number, AC1 times AC2 plus AC0, unsigned; nothing
else changes, C neither (R232; that C stays is the spec's decision D15). -/
def Obligations.MulIsUnsignedMultiplyAdd : Prop :=
  ∀ s : State, ∃ hi lo : Word, exec .mul s = .next { s with acs := { s.acs with ac0 := hi, ac1 := lo } } ∧
    65536 * hi.toNat + lo.toNat = s.acs.ac1.toNat * s.acs.ac2.toNat + s.acs.ac0.toNat

/-- DIV: with AC0 >= AC2 it sets C and changes nothing else; otherwise quotient and remainder satisfy the division
identity with the remainder below the divisor, C is cleared and nothing else changes (R233, R237). -/
def Obligations.DivIsUnsignedDivide : Prop :=
  ∀ s : State,
    (s.acs.ac2.toNat ≤ s.acs.ac0.toNat → exec .div s = .next { s with carry := true }) ∧
    (s.acs.ac0.toNat < s.acs.ac2.toNat → ∃ r q : Word,
      exec .div s = .next { s with acs := { s.acs with ac0 := r, ac1 := q }, carry := false } ∧
      65536 * s.acs.ac0.toNat + s.acs.ac1.toNat = q.toNat * s.acs.ac2.toNat + r.toNat ∧
      r.toNat < s.acs.ac2.toNat)

/-- MUL from AC0 = 0 followed by DIV gives back AC1, with AC0 = 0 and C = 0, for every nonzero AC2 (R237, which the spec
marks as derived). -/
def Obligations.MulThenDivRestores : Prop :=
  ∀ s : State, s.acs.ac0 = 0 → s.acs.ac2 ≠ 0 →
    ∃ t, exec .mul s = .next t ∧ exec .div t = .next { s with carry := false }

/-- The other words to the unit: SKPBZ and SKPDZ skip, SKPBN and SKPDN do not, and every other word does nothing (R235,
R236, the latter the spec's decision D15). -/
def Obligations.OtherMdvWordsDoNothing : Prop :=
  ∀ (ac : Ac) (op : IoOp) (f : Ctl) (s : State),
    exec (.skpMdv ac .bn) s = .next s ∧ exec (.skpMdv ac .dn) s = .next s ∧
    exec (.skpMdv ac .bz) s = .next { s with pc := s.pc + 1 } ∧
    exec (.skpMdv ac .dz) s = .next { s with pc := s.pc + 1 } ∧
    exec (.otherMdv ac op f) s = .next s

/-- DOCS and DOCP to the unit with an accumulator field other than 2 are refused (R234, the spec's decision D15). -/
def Obligations.MdvWithOtherAccumulatorIsRefused : Prop :=
  ∀ (ac : Ac) (pulse : Bool) (s : State), ac ≠ .ac2 → exec (.docMdv ac pulse) s = .refused .mdvAccumulatorField

/-! ## The console (70_reset_and_hazards.md) -/

/-- After the console's Reset: stopped, FAULT none, ION, ION-pending, REQ and DIS 0, every controller Idle with its buffers;
memory, accumulators, PC and the switches unchanged, whatever C becomes (R303; that ION-pending is cleared is D19, that C is
free is D18). -/
def Obligations.ConsoleResetLeaves : Prop :=
  ∀ (s : State) (rest : List Turn), s.agenda = .console .reset :: rest → ∃ t, step s = .next t ∧
    t = { s with
      run := .stopped, latch := .none, ion := false, ionp := false, req := 0, dis := 0, carry := t.carry,
      devices := t.devices, reply := .pc s.pc, agenda := rest, draws := t.draws } ∧
    ∀ d, t.dev d = (s.dev d).map fun c => { c with st := .idle }

/-- Deposit then Examine replies the deposited word, for every address and datum, and changes no other word; while running
both are turned away and change nothing but the reply (R310, R312, R314; the masking of addresses is the spec's decision
D25). -/
def Obligations.DepositThenExamine : Prop :=
  ∀ (s : State) (a d : Word) (rest : List Turn),
    s.agenda = .console (.deposit a d) :: .console (.examine a) :: rest →
    (s.run = .stopped → s.mem.wf = true → ∃ t u, step s = .next t ∧ step t = .next u ∧
      u.reply = .word d ∧ u = { s with mem := u.mem, pc := maskAddr a, reply := .word d, agenda := rest } ∧
      (∀ a', a' ≠ maskAddr a → u.mem.readWord a' = s.mem.readWord a') ∧ u.mem.readWord (maskAddr a) = d) ∧
    (s.run = .running → ∃ t, step s = .next t ∧
      step t = .next { s with reply := .running, agenda := rest })
end

