-- ==== Sys2Proof/Tests/Slice0.lean ====
section
/-! SUPPORT. The model's own tests: ill-formed terms refused, words written out from the encodings of 30_encoding.md decoded,
one or two single steps per instruction with results taken from the worked examples of spec/ (95_test_vectors.md and the
examples of the rules), and for every obligation with hypotheses a witness that meets them. -/

namespace Sys2Proof.Tests

open Sys2Proof.Machine

/-! ## WellFormed: each check refuses an ill-formed term -/

theorem test_wf_mul_absent : Instr.mul.wf false = false := by decide
theorem test_wf_div_absent : Instr.div.wf false = false := by decide
theorem test_wf_docMdv_ac2 : (Instr.docMdv .ac2 true).wf true = false := by decide
theorem test_wf_docMdv_absent : (Instr.docMdv .ac1 true).wf false = false := by decide
theorem test_wf_skpMdv_absent : (Instr.skpMdv .ac0 .bn).wf false = false := by decide
theorem test_wf_otherMdv_absent : (Instr.otherMdv .ac0 .nio .none).wf false = false := by decide
theorem test_wf_otherMdv_docs : (Instr.otherMdv .ac1 .doc .start).wf true = false := by decide
theorem test_wf_otherMdv_docp : (Instr.otherMdv .ac1 .doc .pulse).wf true = false := by decide
theorem test_wf_nio_cpu : (Instr.nio .ac0 .none 0o77).wf true = false := by decide
theorem test_wf_nio_mdv : (Instr.nio .ac0 .none 0o01).wf true = false := by decide
theorem test_wf_dia_cpu : (Instr.dia .ac0 .none 0o77).wf true = false := by decide
theorem test_wf_dia_mdv : (Instr.dia .ac0 .none 0o01).wf true = false := by decide
theorem test_wf_doa_cpu : (Instr.doa .ac0 .none 0o77).wf true = false := by decide
theorem test_wf_doa_mdv : (Instr.doa .ac0 .none 0o01).wf true = false := by decide
theorem test_wf_dib_cpu : (Instr.dib .ac0 .none 0o77).wf true = false := by decide
theorem test_wf_dib_mdv : (Instr.dib .ac0 .none 0o01).wf true = false := by decide
theorem test_wf_dob_cpu : (Instr.dob .ac0 .none 0o77).wf true = false := by decide
theorem test_wf_dob_mdv : (Instr.dob .ac0 .none 0o01).wf true = false := by decide
theorem test_wf_dic_cpu : (Instr.dic .ac0 .none 0o77).wf true = false := by decide
theorem test_wf_dic_mdv : (Instr.dic .ac0 .none 0o01).wf true = false := by decide
theorem test_wf_doc_cpu : (Instr.doc .ac0 .none 0o77).wf true = false := by decide
theorem test_wf_doc_mdv : (Instr.doc .ac0 .none 0o01).wf true = false := by decide
theorem test_wf_skp_cpu : (Instr.skp .ac0 .bn 0o77).wf false = false := by decide
theorem test_wf_skp_mdv : (Instr.skp .ac0 .bn 0o01).wf true = false := by decide

/-! ## Decoding: one word per constructor, written out field by field from R72 to R75, with the field values of R76, R80
to R84 -/

/-- A word from its fields, the top one first, each as its width and its value. -/
def bits (l : List (Nat × Nat)) : Nat := l.foldl (fun w p => w * 2 ^ p.1 + p.2) 0

/-- COM 1,2 = 0o130000 (R110). -/
theorem test_decode_com :
    decodeTableWord 16 (bits [(1, 1), (2, 1), (2, 2), (3, 0), (2, 0), (2, 0), (1, 0), (3, 0)]) = some (.com ⟨.ac1, .ac2, .none, .prev, false, .never⟩) := by decide

/-- NEGZL 3,0,SKP: ACS 3, ACD 0, SH 1, CY 1, SKIP 1. -/
theorem test_decode_neg :
    decodeTableWord 16 (bits [(1, 1), (2, 3), (2, 0), (3, 1), (2, 1), (2, 1), (1, 0), (3, 1)]) = some (.neg ⟨.ac3, .ac0, .left, .zero, false, .skp⟩) := by decide

/-- MOV# 1,1,SZR = 0o125014. -/
theorem test_decode_mov :
    decodeTableWord 16 (bits [(1, 1), (2, 1), (2, 1), (3, 2), (2, 0), (2, 0), (1, 1), (3, 4)]) = some (.mov ⟨.ac1, .ac1, .none, .prev, true, .szr⟩) := by decide

/-- INCZ 0,0,SEZ = 0o101426. -/
theorem test_decode_inc :
    decodeTableWord 16 (bits [(1, 1), (2, 0), (2, 0), (3, 3), (2, 0), (2, 1), (1, 0), (3, 6)]) = some (.inc ⟨.ac0, .ac0, .none, .zero, false, .sez⟩) := by decide

/-- ADCOR 2,3,SNR: SH 2, CY 2, SKIP 5. -/
theorem test_decode_adc :
    decodeTableWord 16 (bits [(1, 1), (2, 2), (2, 3), (3, 4), (2, 2), (2, 2), (1, 0), (3, 5)]) = some (.adc ⟨.ac2, .ac3, .right, .one, false, .snr⟩) := by decide

/-- SUB# 1,2,SNR = 0o132415. -/
theorem test_decode_sub :
    decodeTableWord 16 (bits [(1, 1), (2, 1), (2, 2), (3, 5), (2, 0), (2, 0), (1, 1), (3, 5)]) = some (.sub ⟨.ac1, .ac2, .none, .prev, true, .snr⟩) := by decide

/-- ADDZ# 1,2,SBN = 0o133037. -/
theorem test_decode_add :
    decodeTableWord 16 (bits [(1, 1), (2, 1), (2, 2), (3, 6), (2, 0), (2, 1), (1, 1), (3, 7)]) = some (.add ⟨.ac1, .ac2, .none, .zero, true, .sbn⟩) := by decide

/-- ANDCS 1,2,SZC: SH 3, CY 3, SKIP 2. -/
theorem test_decode_and :
    decodeTableWord 16 (bits [(1, 1), (2, 1), (2, 2), (3, 7), (2, 3), (2, 3), (1, 0), (3, 2)]) = some (.and ⟨.ac1, .ac2, .swap, .comp, false, .szc⟩) := by decide

/-- JMP @.+1 = 0o002401 (R149). -/
theorem test_decode_jmp :
    decodeTableWord 16 (bits [(1, 0), (2, 0), (2, 0), (1, 1), (2, 1), (8, 1)]) = some (.jmp ⟨true, .pcRel, 1⟩) := by decide

/-- JSR 2,3 (R150). -/
theorem test_decode_jsr :
    decodeTableWord 16 (bits [(1, 0), (2, 0), (2, 1), (1, 0), (2, 3), (8, 2)]) = some (.jsr ⟨false, .ac3Rel, 2⟩) := by decide

/-- ISZ 50 = 0o010050 (R151). -/
theorem test_decode_isz :
    decodeTableWord 16 (bits [(1, 0), (2, 0), (2, 2), (1, 0), (2, 0), (8, 0o50)]) = some (.isz ⟨false, .pageZero, 0o50⟩) := by decide

/-- DSZ @-1,2. -/
theorem test_decode_dsz :
    decodeTableWord 16 (bits [(1, 0), (2, 0), (2, 3), (1, 1), (2, 2), (8, 0o377)]) = some (.dsz ⟨true, .ac2Rel, 0o377⟩) := by decide

/-- LDA 1,@20 = 0o026020 (R153). -/
theorem test_decode_lda :
    decodeTableWord 16 (bits [(1, 0), (2, 1), (2, 1), (1, 1), (2, 0), (8, 0o20)]) = some (.lda .ac1 ⟨true, .pageZero, 0o20⟩) := by decide

/-- STA 3,0,3 = 0o055400 (R154). -/
theorem test_decode_sta :
    decodeTableWord 16 (bits [(1, 0), (2, 2), (2, 3), (1, 0), (2, 3), (8, 0)]) = some (.sta .ac3 ⟨false, .ac3Rel, 0⟩) := by decide

/-- DOCP 2,MDV = 0o073301 (R232). -/
theorem test_decode_mul :
    decodeTableWord 16 (bits [(3, 3), (2, 2), (3, 6), (2, 3), (6, 1)]) = some (.mul) := by decide

/-- DOCS 2,MDV = 0o073101 (R233). -/
theorem test_decode_div :
    decodeTableWord 16 (bits [(3, 3), (2, 2), (3, 6), (2, 1), (6, 1)]) = some (.div) := by decide

/-- DOCP 1,MDV (R234). -/
theorem test_decode_docMdv :
    decodeTableWord 16 (bits [(3, 3), (2, 1), (3, 6), (2, 3), (6, 1)]) = some (.docMdv .ac1 true) := by decide

/-- SKPBZ MDV = 0o063501 (R235). -/
theorem test_decode_skpMdv :
    decodeTableWord 16 (bits [(3, 3), (2, 0), (3, 7), (2, 1), (6, 1)]) = some (.skpMdv .ac0 .bz) := by decide

/-- DOCC 2,MDV = 0o073201 (R236). -/
theorem test_decode_otherMdv :
    decodeTableWord 16 (bits [(3, 3), (2, 2), (3, 6), (2, 2), (6, 1)]) = some (.otherMdv .ac2 .doc .clear) := by decide

/-- INTEN = 0o060177 (R200). -/
theorem test_decode_nioCpu :
    decodeTableWord 16 (bits [(3, 3), (2, 0), (3, 0), (2, 1), (6, 0o77)]) = some (.nioCpu .ac0 .start) := by decide

/-- READS 1 = 0o064477 (R201). -/
theorem test_decode_reads :
    decodeTableWord 16 (bits [(3, 3), (2, 1), (3, 1), (2, 0), (6, 0o77)]) = some (.reads .ac1 .none) := by decide

/-- DOA 1,CPU = 0o065077 (R204). -/
theorem test_decode_doaCpu :
    decodeTableWord 16 (bits [(3, 3), (2, 1), (3, 2), (2, 0), (6, 0o77)]) = some (.doaCpu .ac1 .none) := by decide

/-- INTA 1 = 0o065477 (R202). -/
theorem test_decode_inta :
    decodeTableWord 16 (bits [(3, 3), (2, 1), (3, 3), (2, 0), (6, 0o77)]) = some (.inta .ac1 .none) := by decide

/-- MSKO 2 = 0o072077 (R203). -/
theorem test_decode_msko :
    decodeTableWord 16 (bits [(3, 3), (2, 2), (3, 4), (2, 0), (6, 0o77)]) = some (.msko .ac2 .none) := by decide

/-- DICC 0,CPU = 0o062677 (R205). -/
theorem test_decode_iorst :
    decodeTableWord 16 (bits [(3, 3), (2, 0), (3, 5), (2, 2), (6, 0o77)]) = some (.iorst .ac0 .clear) := by decide

/-- HALT = 0o063077 (R206). -/
theorem test_decode_halt :
    decodeTableWord 16 (bits [(3, 3), (2, 0), (3, 6), (2, 0), (6, 0o77)]) = some (.halt .ac0 .none) := by decide

/-- SKPBN CPU = 0o063477 (R209). -/
theorem test_decode_skpbnCpu :
    decodeTableWord 16 (bits [(3, 3), (2, 0), (3, 7), (2, 0), (6, 0o77)]) = some (.skpbnCpu .ac0) := by decide

/-- SKPBZ CPU = 0o063577 (R209). -/
theorem test_decode_skpbzCpu :
    decodeTableWord 16 (bits [(3, 3), (2, 0), (3, 7), (2, 1), (6, 0o77)]) = some (.skpbzCpu .ac0) := by decide

/-- SKPDN CPU = 0o063677 (R209). -/
theorem test_decode_skpdnCpu :
    decodeTableWord 16 (bits [(3, 3), (2, 0), (3, 7), (2, 2), (6, 0o77)]) = some (.skpdnCpu .ac0) := by decide

/-- SKPDZ CPU = 0o063777 (R209). -/
theorem test_decode_skpdzCpu :
    decodeTableWord 16 (bits [(3, 3), (2, 0), (3, 7), (2, 3), (6, 0o77)]) = some (.skpdzCpu .ac0) := by decide

/-- NIOS 10 = 0o060110 (R177). -/
theorem test_decode_nio :
    decodeTableWord 16 (bits [(3, 3), (2, 0), (3, 0), (2, 1), (6, 0o10)]) = some (.nio .ac0 .start 0o10) := by decide

/-- DIAC 0,10 = 0o060610 (R178). -/
theorem test_decode_dia :
    decodeTableWord 16 (bits [(3, 3), (2, 0), (3, 1), (2, 2), (6, 0o10)]) = some (.dia .ac0 .clear 0o10) := by decide

/-- DOAS 0,11 = 0o061111 (R179). -/
theorem test_decode_doa :
    decodeTableWord 16 (bits [(3, 3), (2, 0), (3, 2), (2, 1), (6, 0o11)]) = some (.doa .ac0 .start 0o11) := by decide

/-- DIB 1,10 = 0o065410 (R180). -/
theorem test_decode_dib :
    decodeTableWord 16 (bits [(3, 3), (2, 1), (3, 3), (2, 0), (6, 0o10)]) = some (.dib .ac1 .none 0o10) := by decide

/-- DOBC 0,11 = 0o062211 (R181). -/
theorem test_decode_dob :
    decodeTableWord 16 (bits [(3, 3), (2, 0), (3, 4), (2, 2), (6, 0o11)]) = some (.dob .ac0 .clear 0o11) := by decide

/-- DIC 2,11 = 0o072411 (R182). -/
theorem test_decode_dic :
    decodeTableWord 16 (bits [(3, 3), (2, 2), (3, 5), (2, 0), (6, 0o11)]) = some (.dic .ac2 .none 0o11) := by decide

/-- DOCS 0,10 = 0o063110 (R183). -/
theorem test_decode_doc :
    decodeTableWord 16 (bits [(3, 3), (2, 0), (3, 6), (2, 1), (6, 0o10)]) = some (.doc .ac0 .start 0o10) := by decide

/-- SKPDN 10 = 0o063610 (R185). -/
theorem test_decode_skp :
    decodeTableWord 16 (bits [(3, 3), (2, 0), (3, 7), (2, 2), (6, 0o10)]) = some (.skp .ac0 .dn 0o10) := by decide

/-- Code 0o01 is an ordinary device code when the unit is absent (R79, R230): DOCP 2,MDV is DOCP 2,01. -/
theorem test_decode_mdv_absent : decode false 0o073301 = .doc .ac2 .pulse 0o01 := by decide

/-- Too few bytes are refused by name. -/
theorem test_decode_truncated : decodeBytes true [0x3F] = .error .truncated := by decide

/-! ## Single steps -/

/-- What a result that is a next state holds. -/
def look {α : Type} (f : State → α) (r : Result) : Option α :=
  match r with
  | .next t => some (f t)
  | .fault _ => none
  | .refused _ => none

/-- A running machine at PC 0o100 with the accumulators `std` of 95_test_vectors.md. -/
def std : State := { State.reset with acs := ⟨0x0141, 0x1111, 0x2222, 0x3333⟩, pc := 0o100, run := .running }

/-- One step of `s` with the word `w` at PC. -/
def stepOf (s : State) (w : Nat) : Result := step (s.withFetchWord 16 w)

/-- The rows of part 2: AC1 = `a`, AC2 = `b`, carry `c`, and the word at 0o100. The answer: AC2, C, PC. -/
def alcRow (w : Nat) (a b : Word) (c : Bool) : Option (Word × Bool × Addr) :=
  look (fun t => (t.ac .ac2, t.carry, t.pc)) (stepOf { std with acs := ⟨0, a, b, 0⟩, carry := c } w)

/-- The rows of part 3: the word at `pc`, one cell `k` holding `v`. -/
def memState (pc : Addr) (acs : Accs) (k : Addr) (v : Word) : State :=
  State.write { std with acs := acs, pc := pc } k v

/-- Accumulators all 0. -/
def zero : Accs := ⟨0, 0, 0, 0⟩

/-- The rows of parts 4 and 5: the states of reader, writer and clock, with the request bits that go with them. -/
def devState (r w c : DevState) : State :=
  { std with
    devices := [⟨0o10, 3, r, .reader 0x61 true⟩, ⟨0o11, 4, w, .writer 0 true []⟩, ⟨0o14, 6, c, .rtc 0⟩],
    req := (if r = .done then devBit 0o10 else 0) ||| (if w = .done then devBit 0o11 else 0) |||
      (if c = .done then devBit 0o14 else 0) }

/-- The states of the controllers. -/
def devs (t : State) : List DevState := t.devices.map fun c => c.st

/-- Part 2.1, COM 1,2. -/
theorem test_com_basic : alcRow 0o130000 0x1234 0x5678 true = some (0xEDCB, true, 0o101) := by decide

/-- Part 2.1, COM 1,2. -/
theorem test_com_zero : alcRow 0o130000 0x0000 0x0000 false = some (0xFFFF, false, 0o101) := by decide

/-- Part 2.1, NEG 1,2. -/
theorem test_neg_of_zero : alcRow 0o130400 0x0000 0x0000 true = some (0x0000, false, 0o101) := by decide

/-- Part 2.1, NEG 1,2. -/
theorem test_neg_min : alcRow 0o130400 0x8000 0x8000 false = some (0x8000, false, 0o101) := by decide

/-- Part 2.3, MOVR 1,2. -/
theorem test_mov_right : alcRow 0o131200 0x12AB 0x0000 true = some (0x8955, true, 0o101) := by decide

/-- Part 2.3, MOVS 1,2. -/
theorem test_mov_swap : alcRow 0o131300 0x8001 0x0000 false = some (0x0180, false, 0o101) := by decide

/-- Part 2.1, INC 1,2. -/
theorem test_inc_wrap : alcRow 0o131400 0xFFFF 0xFFFF true = some (0x0000, false, 0o101) := by decide

/-- Part 2.1, INC 1,2. -/
theorem test_inc_sign : alcRow 0o131400 0x8000 0x8000 false = some (0x8001, false, 0o101) := by decide

/-- Part 2.1, ADC 1,2. -/
theorem test_adc_basic : alcRow 0o132000 0x5678 0x1234 false = some (0xBBBB, false, 0o101) := by decide

/-- Part 2.6, ADCZ 1,2. -/
theorem test_adc_carry : alcRow 0o132020 0x0005 0x0007 false = some (0x0001, true, 0o101) := by decide

/-- Part 2.1, SUB 1,2. -/
theorem test_sub_borrow : alcRow 0o132400 0x5678 0x1234 false = some (0xBBBC, false, 0o101) := by decide

/-- Part 2.5, SUB# 1,2,SZR. -/
theorem test_sub_noload : alcRow 0o132414 0x0005 0x0005 true = some (0x0005, true, 0o102) := by decide

/-- Part 2.2, ADDC 1,2. -/
theorem test_add_complement : alcRow 0o133060 0xFFFF 0x0001 true = some (0x0000, true, 0o101) := by decide

/-- Part 2.6, ADDZR 1,2. -/
theorem test_add_right : alcRow 0o133220 0x7FFF 0x0001 false = some (0x4000, false, 0o101) := by decide

/-- Part 2.1, AND 1,2. -/
theorem test_and_basic : alcRow 0o133400 0x1234 0x5678 true = some (0x1230, true, 0o101) := by decide

/-- Part 2.6, ANDL 1,2. -/
theorem test_and_left : alcRow 0o133500 0xF0F0 0xFF00 true = some (0xE001, true, 0o101) := by decide

/-- Part 3, JMP .-1 at 0. -/
theorem test_jmp_wrap :
    look (fun t => t.pc) (stepOf { std with pc := 0 } 0o000777) = some 0o77777 := by decide

/-- Part 3, JMP @37 (0x8000): the word as loaded continues the chain. -/
theorem test_jmp_auto :
    look (fun t => (t.pc, t.read 0o37)) (stepOf (State.write (memState 0o1000 zero 0o37 0x8000) 0o77777 0x029C) 0o002037) = some (0o001234, 0x7FFF) := by decide

/-- Part 3, JSR 0,3. -/
theorem test_jsr_base :
    look (fun t => (t.pc, t.acs)) (stepOf { std with pc := 0o1000, acs := ⟨0, 0, 0, 0x0A00⟩ } 0o005400) = some (0o5000, ⟨0, 0, 0, 0x0201⟩) := by decide

/-- Part 3, JSR . at 0x7FFF. -/
theorem test_jsr_top :
    look (fun t => (t.pc, t.acs)) (stepOf { std with pc := 0o77777, acs := zero } 0o004400) = some (0o77777, zero) := by decide

/-- Part 3, ISZ 100 (0xFFFF). -/
theorem test_isz_skip :
    look (fun t => (t.pc, t.read 0o100)) (stepOf (memState 0o1000 zero 0o100 0xFFFF) 0o010100) = some (0o1002, 0) := by decide

/-- Part 3, ISZ @20. -/
theorem test_isz_indirect :
    look (fun t => (t.pc, t.read 0o20, t.read 0o101)) (stepOf (State.write (memState 0o1000 zero 0o20 0x0040) 0o101 0xFFFF) 0o012020) = some (0o1002, 0x0041, 0) := by decide

/-- Part 3, DSZ 100 skip at 0x7FFE. -/
theorem test_dsz_top :
    look (fun t => (t.pc, t.read 0o100)) (stepOf (memState 0o77776 zero 0o100 1) 0o014100) = some (0, 0) := by decide

/-- Part 3, DSZ 100 (0). -/
theorem test_dsz_zero :
    look (fun t => (t.pc, t.read 0o100)) (stepOf (memState 0o1000 zero 0o100 0) 0o014100) = some (0o1001, 0xFFFF) := by decide

/-- Part 3, LDA 3,-2,3: the base is also the destination. -/
theorem test_lda_base :
    look (fun t => (t.pc, t.acs)) (stepOf (memState 0o1000 ⟨0, 0, 0, 0x0402⟩ 0o2000 0x1234) 0o035776) = some (0o1001, ⟨0, 0, 0, 0x1234⟩) := by decide

/-- Part 3, LDA 0,@20. -/
theorem test_lda_inc :
    look (fun t => (t.ac .ac0, t.read 0o20)) (stepOf (State.write (memState 0o1000 zero 0o20 0x03FF) 0o2000 0x6789) 0o022020) = some (0x6789, 0x0400) := by decide

/-- Part 3, STA 0,@31. -/
theorem test_sta_dec :
    look (fun t => (t.read 0o31, t.read 0o2777, t.pc)) (stepOf (memState 0o1000 ⟨0x5555, 0, 0, 0⟩ 0o31 0x0600) 0o042031) = some (0x05FF, 0x5555, 0o1001) := by decide

/-- R154, STA 3,0,3 with AC3 = 0x8123. -/
theorem test_sta_masked :
    look (fun t => (t.read 0x0123, t.pc)) (stepOf { std with pc := 0o1000, acs := ⟨0, 0, 0, 0x8123⟩ } 0o055400) = some (0x8123, 0o1001) := by decide

/-- Part 6. -/
theorem test_mul_max :
    look (fun t => (t.acs, t.carry)) (stepOf { std with acs := ⟨0xFFFF, 0xFFFF, 0xFFFF, 0x3333⟩, carry := true } 0o073301) = some (⟨0xFFFF, 0, 0xFFFF, 0x3333⟩, true) := by decide

/-- Part 6. -/
theorem test_mul_high :
    look (fun t => (t.acs, t.carry)) (stepOf { std with acs := ⟨5, 0x8000, 2, 0x3333⟩, carry := true } 0o073301) = some (⟨1, 5, 2, 0x3333⟩, true) := by decide

/-- Part 6. -/
theorem test_div_max :
    look (fun t => (t.acs, t.carry)) (stepOf { std with acs := ⟨4, 0xFFFF, 5, 0x3333⟩, carry := true } 0o073101) = some (⟨4, 0xFFFF, 5, 0x3333⟩, false) := by decide

/-- Part 6. -/
theorem test_div_overflow :
    look (fun t => (t.acs, t.carry)) (stepOf { std with acs := ⟨2, 0, 2, 0x3333⟩, carry := true } 0o073101) = some (⟨2, 0, 2, 0x3333⟩, true) := by decide

/-- R234: DOCP 1,MDV is refused. -/
theorem test_docMdv_refused : look (fun t => t.pc) (stepOf std 0o067301) = none := by decide

/-- Part 6, SKPBZ MDV. -/
theorem test_skpMdv_bz :
    look (fun t => t.pc) (stepOf std 0o063501) = some 0o102 := by decide

/-- Part 6, SKPDN MDV. -/
theorem test_skpMdv_dn :
    look (fun t => t.pc) (stepOf std 0o063601) = some 0o101 := by decide

/-- Part 6, DIA 1,MDV. -/
theorem test_otherMdv_dia :
    look (fun t => (t.acs, t.pc)) (stepOf std 0o064401) = some (std.acs, 0o101) := by decide

/-- Part 5, INTEN (ION=0). -/
theorem test_nioCpu_inten :
    look (fun t => (t.ion, t.ionp, t.pc)) (stepOf std 0o060177) = some (false, true, 0o101) := by decide

/-- Part 5, INTDS (ION=1). -/
theorem test_nioCpu_intds :
    look (fun t => (t.ion, t.ionp, t.pc)) (stepOf { std with ion := true } 0o060277) = some (false, false, 0o101) := by decide

/-- Part 5, READS 0 +S. -/
theorem test_reads_start :
    look (fun t => (t.acs, t.ionp)) (stepOf { std with sr := 0xA5A5 } 0o060577) = some (⟨0xA5A5, 0x1111, 0x2222, 0x3333⟩, true) := by decide

/-- Part 5, DOA 1,CPU. -/
theorem test_doaCpu_none :
    look (fun t => (t.acs, t.ion, t.ionp, t.pc)) (stepOf std 0o065077) = some (std.acs, false, false, 0o101) := by decide

/-- Part 5, INTA 1 (10 masked, 11). -/
theorem test_inta_masked :
    look (fun t => (t.ac .ac1, t.req)) (stepOf { devState .done .done .idle with dis := devBit 0o10 } 0o065477) = some (0x0009, devBit 0o10 ||| devBit 0o11) := by decide

/-- Part 5, INTA 1 (10 masked only). -/
theorem test_inta_none :
    look (fun t => t.ac .ac1) (stepOf { devState .done .idle .idle with dis := devBit 0o10 } 0o065477) = some (0 : Word) := by decide

/-- Part 5, MSKO 2 (AC2=0x0058). -/
theorem test_msko_all :
    look (fun t => t.dis) (stepOf { std with acs := ⟨0x0141, 0x1111, 0x0058, 0x3333⟩ } 0o072077) = some (devBit 0o10 ||| devBit 0o11 ||| devBit 0o14) := by decide

/-- Part 5, MSKO 2 unmasking a pending request, ION=1. -/
theorem test_msko_unmasks :
    look (fun t => (t.pc, t.dis, t.ion, t.read 0)) (stepOf (State.write { devState .done .idle .idle with acs := ⟨0, 0, 0, 0⟩, ion := true, dis := devBit 0o10 } 1 0o500) 0o072077) = some (0o500, 0, false, 0o101) := by decide

/-- Part 5, DICS 0,CPU. -/
theorem test_iorst_start :
    look (fun t => (devs t, t.req, t.dis, t.ion, t.ionp)) (stepOf { devState .done .busy .idle with ion := true, dis := devBit 0o11 } 0o062577) = some ([.idle, .idle, .idle], 0, 0, false, true) := by decide

/-- Part 5, HALT with pending request, ION=1. -/
theorem test_halt_pending :
    look (fun t => (t.pc, t.run, t.ion, t.haltSignal)) (stepOf { devState .done .idle .idle with ion := true } 0o063077) = some (0o101, .stopped, true, true) := by decide

/-- Part 5, DOCC 0,CPU. -/
theorem test_halt_clear :
    look (fun t => (t.pc, t.run, t.ion)) (stepOf { std with ion := true } 0o063277) = some (0o101, .stopped, false) := by decide

/-- Part 5, SKPBN CPU ION=1. -/
theorem test_skpbnCpu_on :
    look (fun t => t.pc) (stepOf { std with ion := true } 0o063477) = some 0o102 := by decide

/-- Part 5, SKPBN CPU ION=0. -/
theorem test_skpbnCpu_off :
    look (fun t => t.pc) (stepOf std 0o063477) = some 0o101 := by decide

/-- Part 5, SKPBZ CPU ION=1. -/
theorem test_skpbzCpu_on :
    look (fun t => t.pc) (stepOf { std with ion := true } 0o063577) = some 0o101 := by decide

/-- Part 5, SKPBZ CPU ION=0. -/
theorem test_skpbzCpu_off :
    look (fun t => t.pc) (stepOf std 0o063577) = some 0o102 := by decide

/-- Part 5, SKPDN CPU ION=1. -/
theorem test_skpdnCpu_never :
    look (fun t => t.pc) (stepOf { std with ion := true } 0o063677) = some 0o101 := by decide

/-- Part 5, SKPDZ CPU ION=0. -/
theorem test_skpdzCpu_always :
    look (fun t => t.pc) (stepOf std 0o063777) = some 0o102 := by decide

/-- Part 4, NIOS 10 (Done); AC0 is a free value, so it is not looked at. -/
theorem test_nio_start :
    look (fun t => (devs t, t.req, t.ac .ac1, t.pc)) (stepOf (devState .done .idle .idle) 0o060110) = some ([.busy, .idle, .idle], 0, 0x1111, 0o101) := by decide

/-- Part 4, NIOS 50 absent. -/
theorem test_nio_absent :
    look (fun t => (t.acs, devs t)) (stepOf std 0o060150) = some (std.acs, devs std) := by decide

/-- Part 4, DIAS 1,10 (Done,0x61). -/
theorem test_dia_start :
    look (fun t => (t.acs, devs t, t.req)) (stepOf (devState .done .idle .idle) 0o064510) = some (⟨0x0141, 0x0061, 0x2222, 0x3333⟩, [.busy, .idle, .idle], 0) := by decide

/-- Part 4, DIA 1,50 absent. -/
theorem test_dia_absent :
    look (fun t => t.acs) (stepOf std 0o064450) = some std.acs := by decide

/-- Part 4, DOAS 0,11. -/
theorem test_doa_writer :
    look (fun t => (devs t, (t.dev 0o11).map fun c => c.unit)) (stepOf std 0o061111) = some ([.idle, .busy, .idle], some (.writer 0x0141 true [])) := by decide

/-- Part 4, DOA 2,14 (rtc). -/
theorem test_doa_rtc :
    look (fun t => (devs t, (t.dev 0o14).map fun c => c.unit)) (stepOf std 0o071014) = some ([.idle, .idle, .idle], some (.rtc 2)) := by decide

/-- Part 4, DIB 1,10; AC1 is a free value. -/
theorem test_dib_reader :
    look (fun t => (devs t, t.ac .ac0, t.pc)) (stepOf std 0o065410) = some ([.idle, .idle, .idle], 0x0141, 0o101) := by decide

/-- Part 4, DOBC 0,11 (Done). -/
theorem test_dob_clear :
    look (fun t => (devs t, t.req, t.acs)) (stepOf (devState .idle .done .idle) 0o062211) = some ([.idle, .idle, .idle], 0, std.acs) := by decide

/-- Part 4, DIC 2,11; AC2 is a free value. -/
theorem test_dic_writer :
    look (fun t => (devs t, t.ac .ac3, t.pc)) (stepOf std 0o072411) = some ([.idle, .idle, .idle], 0x3333, 0o101) := by decide

/-- Part 4, DOCS 0,10. -/
theorem test_doc_start :
    look (fun t => (devs t, t.acs)) (stepOf std 0o063110) = some ([.busy, .idle, .idle], std.acs) := by decide

/-- Part 4, SKPDN 10 Done. -/
theorem test_skp_done :
    look (fun t => (t.pc, devs t)) (stepOf (devState .done .idle .idle) 0o063610) = some (0o102, [.done, .idle, .idle]) := by decide

/-- Part 4, SKPDZ 50 absent. -/
theorem test_skp_absent :
    look (fun t => t.pc) (stepOf std 0o063750) = some 0o102 := by decide

/-- Part 7, I6: a completion between execution and the check is seen by that check; INTA answered 0. -/
theorem test_completion_before_check :
    look (fun t => (t.pc, t.ac .ac1, t.read 0, devs t)) (step { (State.write { devState .idle .busy .idle with
      acs := zero, ion := true } 1 0o500).withFetchWord 16 0o065477 with agenda := [.core [⟨0o11, .eof⟩]] }) =
    some (0o500, 0, 0o101, [.idle, .done, .idle]) := by decide

/-- Part 3, JMP @.+1 (self loop), with a HOP_CAP of 3 in place of 2^15 to keep the test small: the core stops with PC as
the fetch left it (R147). -/
theorem test_indirect_loop :
    look (fun t => (t.pc, t.run, t.latch)) (stepOf (memState 0o1000 zero 0o1001 0x8201 |> fun s =>
      { s with cfg := { s.cfg with hopCap := some 3 } }) 0o002401) =
    some (0o1001, .stopped, .indirectLoop) := by decide

/-- Scenario S2: InstStep of the HALT at 2 replies (3, halt). -/
theorem test_instStep_halt :
    look (fun t => (t.reply, t.run)) (step { State.write State.reset 2 0o063077 with pc := 2, agenda :=
      [.console (.instStep [])] }) = some (.stepped 3 true, .stopped) := by decide

/-- Part 7, I10 with InstStep, and a HOP_CAP of 3 to keep the test small: the chain from cell 1 does not end, M[0] is written,
ION is 0, PC is the interrupted address, and the reply is the error report (R254, R262, R320). -/
theorem test_instStep_error_report :
    look (fun t => (t.reply, t.latch, t.ion, t.pc, t.read 0)) (step { State.write (State.write (devState .done .idle .idle)
      0o100 0o101000) 1 0x8001 with ion := true, run := .stopped, cfg := { resetConfig with hopCap := some 3 }, agenda :=
      [.console (.instStep [])] }) = some (.indirectLoop, .indirectLoop, false, 0o101, 0o101) := by decide

/-- R320: WaitForHalt finds the error report after an IndirectLoop, and no halt while FAULT is none. -/
theorem test_waitForHalt_error_report :
    look (fun t => t.reply) (step { State.reset with latch := .indirectLoop, agenda := [.console .waitForHalt] }) =
      some .indirectLoop ∧
    look (fun t => t.reply) (step { State.reset with agenda := [.console .waitForHalt] }) = some .timeout := by decide

/-- Part 7, I2: M[1] = 0x8011 goes on to cell 0o21, which is auto-incremented. -/
theorem test_interrupt_through_autoinc :
    look (fun t => (t.pc, t.ion, t.read 0, t.read 0o21)) (step { State.write (State.write (State.write
      (devState .done .idle .idle) 0o100 0o101000) 1 0x8011) 0o21 0x013F with ion := true }) =
    some (0o500, false, 0o101, 0o500) := by decide

/-- R316, R310: LoadMemory wraps at the top of memory and leaves PC. -/
theorem test_loadMemory_wraps :
    look (fun t => (t.read 0o77777, t.read 0, t.pc)) (step { State.reset with pc := 5, agenda :=
      [.console (.loadMemory 0o77777 [1, 2])] }) = some (1, 2, 5) := by decide

/-- R315: Switches is accepted while running. -/
theorem test_switches_running :
    look (fun t => (t.sr, t.run)) (step { std with agenda := [.console (.switches 0x1234)] }) =
    some (0x1234, .running) := by decide

/-- R319: Start while running changes nothing but the reply. -/
theorem test_start_running :
    step { std with agenda := [.console (.start 5)] } = .next { std with reply := .running } := rfl

/-! ## Witnesses: for every obligation with hypotheses a concrete state and operands that meet them together, each clause at
a boundary value where it has one -/

/-- Whether a result is a next state. -/
def isNext (r : Result) : Bool := (look (fun _ => ()) r).isSome

/-- `s` with the words of `l` from address `a` on. -/
def withWords (s : State) (a : Addr) (l : List Word) : State := { s with mem := s.mem.writeWords a l }

/-- The reader Done with its request, a mask that hides the writer, M[1] = 0o500. -/
def pending : State := State.write { devState .done .idle .idle with dis := devBit 0o11 } 1 0o500

theorem witness_DecodeEncodeRoundTrip :
    (Instr.nio .ac3 .pulse 0o76).wf true = true ∧ (Instr.doc .ac2 .pulse 0o01).wf false = true ∧
    (Instr.docMdv .ac3 true).wf true = true ∧ (Instr.otherMdv .ac2 .doc .clear).wf true = true ∧
    (Instr.and ⟨.ac3, .ac3, .swap, .comp, true, .sbn⟩).wf true = true := by decide

/-- The word of MUL selects four rows of the table. -/
theorem witness_DecodeTakesMostSpecificRow :
    ((tableRows true).filter fun r => r.selectedBy 0o073301).length = 4 ∧
    ((tableRows false).filter fun r => r.selectedBy 0o073301).length = 1 := by decide

theorem witness_StepRunsDecodedInstruction :
    std.run = .running ∧ std.agenda = [] ∧
    ({ std with agenda := [.core [⟨0o11, .eof⟩], .device ⟨0o10, .eof⟩] } : State).agenda =
      .core [⟨0o11, .eof⟩] :: [.device ⟨0o10, .eof⟩] ∧
    State.reset.run = .stopped := by decide

theorem witness_StoppedCoreExecutesNothing :
    ({ pending with run := .stopped, ion := true } : State).run = .stopped ∧
    ({ pending with run := .stopped, ion := true } : State).agenda = [] := by decide

/-- Part 7, I4, at the top of memory. -/
theorem witness_EnableThenDisableNeverInterrupts :
    let s := withWords { pending with pc := 0o77777 } 0o77777 [0o060177, 0o060277]
    s.run = .running ∧ s.agenda = [] ∧ s.ion = false ∧ s.ionp = false ∧ s.honoured ≠ 0 ∧
    decode s.cfg.mdvPresent (s.mem.readWord s.pc) = .nioCpu .ac0 .start ∧
    decode s.cfg.mdvPresent (s.mem.readWord (s.pc + 1)) = .nioCpu .ac0 .clear := by decide

theorem witness_InterruptTakenOneInstructionLate :
    let s := withWords pending 0o100 [0o060177, 0o063677]
    s.run = .running ∧ s.agenda = [] ∧ s.ion = false ∧ s.ionp = false ∧ s.mem.wf = true ∧ s.cfg.hopCap ≠ some 0 ∧
    s.honoured ≠ 0#64 ∧ (s.mem.readWord 1).getLsbD 15 = false ∧
    decode s.cfg.mdvPresent (s.mem.readWord s.pc) = .nioCpu .ac0 .start ∧
    decode s.cfg.mdvPresent (s.mem.readWord (s.pc + 1)) = .skpdnCpu .ac0 := by decide

/-- An honoured request, interrupts on, and `w` in cell 1. -/
def entered (w : Word) : State := State.write { pending with ion := true } 1 w

/-- What every clause asks of the state. -/
def entryPremises (s : State) : Bool :=
  s.mem.wf && s.ion && s.honoured != 0#64 && s.cfg.hopCap != none && s.cfg.hopCap != some 0 && s.cfg.hopCap != some 1

/-- What the clause of the two-hop chain asks besides: cell 1 names cell `a`, which holds a word with bit 15 clear. -/
def secondHop (s : State) (a : Addr) : Bool :=
  (s.mem.readWord 1).getLsbD 15 && maskAddr (s.mem.readWord 1) == a && a != 0 && !(s.mem.readWord a).getLsbD 15

/-- The clauses of the interrupt sequence at boundary values: M[1] direct; the second hop on both sides of each meeting
point, vector I2 among them; a chain that ends in the saved PC; vector I10. -/
theorem witness_InterruptSavesPcAndEntersHandler :
    (entryPremises (entered 0o500) && !((entered 0o500).mem.readWord 1).getLsbD 15) = true ∧
    (([(0x8011, 0o21, 0x013F), (0x8010, 0o20, 0x7FFF), (0x8017, 0o27, 0), (0x8018, 0o30, 0), (0x801F, 0o37, 0),
      (0x800F, 0o17, 0x7FFF), (0x8020, 0o40, 1)] : List (Word × Addr × Word)).all fun p =>
      entryPremises (State.write (entered p.1) p.2.1 p.2.2) && secondHop (State.write (entered p.1) p.2.1 p.2.2) p.2.1)
      = true ∧
    (entryPremises (entered 0x8000) && ((entered 0x8000).write 0 (zext (entered 0x8000).pc)).followChain 1 ==
      .ends 0o100 ((entered 0x8000).write 0 0o100).mem) = true ∧
    (entryPremises (entered 0x8001) && (entered 0x8001).mem.readWord 1 == 0x8001) = true := by
  refine ⟨?_, ?_, ?_, ?_⟩ <;> decide

/-- With a HOP_CAP of 2 the endless chain from cell 1 runs out. -/
theorem witness_InterruptSavesPcAndEntersHandler_loops :
    let s := { entered 0x8001 with cfg := { resetConfig with hopCap := some 2 } }
    s.mem.wf = true ∧ s.ion = true ∧ s.honoured ≠ 0#64 ∧ s.cfg.hopCap ≠ none ∧
    (s.write 0 (zext s.pc)).followChain 1 = .loops (s.write 0 (zext s.pc)).mem := by decide

/-- ION off with a request honoured; ION on with the only request masked. -/
theorem witness_NoInterruptUnlessEnabledAndHonoured :
    (pending.ion = false ∧ pending.honoured ≠ 0) ∧
    (let s := { pending with ion := true, dis := devBit 0o10 }
     s.ion = true ∧ s.req ≠ 0 ∧ s.req &&& ~~~s.dis = 0#64) := by decide

theorem witness_JumpThroughCellZeroReturns :
    (State.write std 0 0o77777).cfg.hopCap ≠ some 0 ∧ (State.write std 0 0o77777).mem.readWord 0 = zext 0o77777 := by
  decide

/-- The requests of `pending`: code 0o10 alone is set, and the reader alone is Done. -/
theorem pending_requests (d : DevCode) : pending.req.getLsbD d.toNat = pending.isDone d := by
  revert d
  decide

theorem pending_inv : pending.Inv :=
  ⟨by decide, by decide, pending_requests, by decide, ⟨0x0010, by decide⟩⟩

/-- A state with the invariant, a request and a mask, from which a step takes an interrupt. -/
theorem witness_StepKeepsInv : { pending with ionp := true }.Inv ∧ isNext (step { pending with ionp := true }) = true :=
  ⟨⟨by decide, by decide, pending_requests, by decide, ⟨0x0010, by decide⟩⟩, by decide⟩

theorem witness_StepKeepsInstalledDevices : isNext (step { pending with agenda := [.console .reset] }) = true := by decide

/-- The invariant holds of `pending`; and each premise of the two sides is met and is missed by some turn. -/
theorem witness_EveryStepCompletes : pending.Inv ∧ pending.cfg.hopCap ≠ none ∧ pending.cfg.bootBlob = none ∧
    pending.executesNext = true ∧ pending.loadsNext = false ∧
    decode pending.cfg.mdvPresent (pending.mem.readWord pending.pc) = .jmp ⟨false, .pageZero, 0⟩ ∧
    (withWords pending 0o100 [0o063101]).executesNext = true ∧
    decode true ((withWords pending 0o100 [0o063101]).mem.readWord 0o100) = .docMdv .ac0 false ∧
    { pending with agenda := [.device ⟨0o11, .eof⟩] }.executesNext = false ∧
    { pending with run := .stopped, agenda := [.console (.instStep [])] }.executesNext = true ∧
    { pending with run := .stopped, agenda := [.console .programLoad] }.loadsNext = true :=
  ⟨pending_inv, by decide⟩

theorem witness_OnlyMemoryReferencesWriteMemory :
    isMemRef (.iorst .ac0 .start) = false ∧ isNext (exec (.iorst .ac0 .start) pending) = true := by decide

theorem witness_CarryReachesOnlyAlcAndDiv : isAlc .mul = false ∧ Instr.mul ≠ .div := by decide

/-- INTDS, which changes ION; and MUL, which is outside the class. -/
theorem witness_EnableFlagsBelongToCpuDevice :
    isNext (exec (.nioCpu .ac0 .clear) { pending with ion := true }) = true ∧
    isCpuControl .mul = false ∧ isNext (exec .mul { pending with ion := true }) = true := by decide

theorem witness_AccumulatorsWrittenAsTabled :
    isNext (exec (.jsr ⟨false, .ac3Rel, 0⟩) std) = true ∧ mayWrite (.jsr ⟨false, .ac3Rel, 0⟩) .ac2 = false ∧
    isNext (exec (.com ⟨.ac0, .ac1, .none, .prev, true, .never⟩) std) = true ∧
    mayWrite (.com ⟨.ac0, .ac1, .none, .prev, true, .never⟩) .ac1 = false := by decide

theorem witness_OnlyJumpsLeaveTheSequence :
    (∀ m, Instr.isz ⟨true, .pageZero, 0o20⟩ ≠ .jmp m) ∧ (∀ m, Instr.isz ⟨true, .pageZero, 0o20⟩ ≠ .jsr m) ∧
    isNext (exec (.isz ⟨true, .pageZero, 0o20⟩) std) = true :=
  ⟨fun _ => by simp, fun _ => by simp, by decide⟩

/-- One instruction that meets every clause's hypotheses: READS. -/
theorem witness_SystemStateWrittenAsTabled :
    isNext (exec (.reads .ac0 .start) std) = true ∧
    (∀ ac f, Instr.reads .ac0 .start ≠ .msko ac f) ∧ (∀ ac f, Instr.reads .ac0 .start ≠ .iorst ac f) ∧
    (∀ ac f, Instr.reads .ac0 .start ≠ .halt ac f) ∧ isDeviceIo (.reads .ac0 .start) = false ∧
    isMemRef (.reads .ac0 .start) = false :=
  ⟨by decide, fun _ _ => by simp, fun _ _ => by simp, fun _ _ => by simp, by decide⟩

/-- The largest bit numbers of the clauses, and that bit 16 is met by neither. -/
theorem witness_ShifterRotatesThroughCarry : 15 < 16 ∧ 7 < 8 ∧ ¬ 16 < 16 := by decide

/-- The eight ALC instructions with their functions, as the two statements below list them. -/
def alcPairs (a : AlcFields) : List (Instr × (Word → Word → Alu)) :=
  [(Instr.com a, fCom), (Instr.neg a, fNeg), (Instr.mov a, fMov), (Instr.inc a, fInc),
    (Instr.adc a, fAdc), (Instr.sub a, fSub), (Instr.add a, fAdd), (Instr.and a, fAnd)]

/-- Both values of the candidate with a result that is 0 and one that is not; the skip code is free. -/
theorem witness_SkipFollowsCandidateAndResult (sk : Skip) :
    (Instr.mov ⟨.ac0, .ac0, .none, .one, true, sk⟩, fMov) ∈ alcPairs ⟨.ac0, .ac0, .none, .one, true, sk⟩ ∧
    (Instr.sub ⟨.ac0, .ac0, .none, .one, false, sk⟩, fSub) ∈ alcPairs ⟨.ac0, .ac0, .none, .one, false, sk⟩ ∧
    carryOf (std.alcValue fMov ⟨.ac0, .ac0, .none, .one, true, sk⟩) = true ∧
    resultOf (std.alcValue fMov ⟨.ac0, .ac0, .none, .one, true, sk⟩) = 0x0141 ∧
    carryOf (std.alcValue fMov ⟨.ac0, .ac0, .none, .zero, true, sk⟩) = false ∧
    resultOf (std.alcValue fMov ⟨.ac0, .ac0, .none, .zero, true, sk⟩) = 0x0141 ∧
    carryOf (std.alcValue fSub ⟨.ac0, .ac0, .none, .one, false, sk⟩) = false ∧
    resultOf (std.alcValue fSub ⟨.ac0, .ac0, .none, .one, false, sk⟩) = 0 ∧
    carryOf (std.alcValue fSub ⟨.ac0, .ac0, .none, .zero, false, sk⟩) = true ∧
    resultOf (std.alcValue fSub ⟨.ac0, .ac0, .none, .zero, false, sk⟩) = 0 :=
  ⟨by simp [alcPairs], by simp [alcPairs], by cases sk <;> decide⟩

/-- One instruction of the list with NL = 1 and one with NL = 0. -/
theorem witness_NoLoadDiscardsResultAndCarry :
    (Instr.com ⟨.ac0, .ac1, .none, .prev, true, .never⟩, fCom) ∈ alcPairs ⟨.ac0, .ac1, .none, .prev, true, .never⟩ ∧
    (Instr.and ⟨.ac0, .ac1, .none, .prev, false, .never⟩, fAnd) ∈ alcPairs ⟨.ac0, .ac1, .none, .prev, false, .never⟩ ∧
    (⟨.ac0, .ac1, .none, .prev, true, .never⟩ : AlcFields).nl = true ∧
    (⟨.ac0, .ac1, .none, .prev, false, .never⟩ : AlcFields).nl = false :=
  ⟨by simp [alcPairs], by simp [alcPairs], rfl, rfl⟩

/-- Each mode, with the displacement at an end of its range. -/
theorem witness_ModeAddressArithmetic :
    (⟨false, .pageZero, 0o377⟩ : EaFields).ind = false ∧ (⟨false, .pcRel, 0x80⟩ : EaFields).ind = false ∧
    (⟨false, .ac2Rel, 0x7F⟩ : EaFields).ind = false ∧ (⟨false, .ac3Rel, 0xFF⟩ : EaFields).ind = false := by decide

/-- An indirect page-zero reference to cell `a` that holds `v`, bit 15 clear. -/
def hopPremises (a : Addr) (v : Word) : Prop :=
  let s := memState 0o1000 zero a v
  let m : EaFields := ⟨true, .pageZero, a.setWidth 8⟩
  m.ind = true ∧ s.cfg.hopCap ≠ some 0 ∧ s.mem.wf = true ∧ (s.mem.readWord a).getLsbD 15 = false ∧
    maskAddr (s.modeAddress m) = a

/-- Both sides of each meeting point of the clauses: 0o17 and 0o40 outside, 0o20 and 0o27, 0o30 and 0o37 inside. -/
theorem witness_LastHopUsesOrAutoIndexesTheCell :
    hopPremises 0o17 0x7FFF ∧ hopPremises 0o20 0x7FFF ∧ hopPremises 0o27 0x0400 ∧ hopPremises 0o30 0 ∧
    hopPremises 0o37 0x0400 ∧ hopPremises 0o40 0x0400 := by
  simp only [hopPremises]
  decide

/-- Hops that go on, on both sides of each meeting point, with a changed word that keeps bit 15, loses it (0xFFFF) or has it
lost by the decrement (0x8000). -/
theorem witness_LastHopUsesOrAutoIndexesTheCell_goesOn :
    (([(0o17, 0x8005), (0o20, 0xFFFF), (0o27, 0x8005), (0o30, 0x8000), (0o37, 0x8005), (0o40, 0xFFFF)] :
      List (Addr × Word)).all fun p =>
      (memState 0o1000 zero p.1 p.2).mem.wf && ((memState 0o1000 zero p.1 p.2).mem.readWord p.1).getLsbD 15) = true := by
  decide

/-- A chain of two hops, 0o100 to 0o200, which ends. -/
theorem witness_LastHopUsesOrAutoIndexesTheCell_exact :
    let s := State.write (memState 0o1000 zero 0o100 0o100200) 0o200 0o300
    let m : EaFields := ⟨true, .pageZero, 0o100⟩
    let cell : Nat → Addr := fun k => if k = 0 then 0o100 else 0o200
    m.ind = true ∧ maskAddr (s.modeAddress m) = cell 0 ∧
    (∀ k, k ≤ 1 → (cell k).toNat < 0o20 ∨ 0o37 < (cell k).toNat) ∧
    (∀ k, k < 1 → s.mem.readWord (cell k) = 0x8000#16 ||| zext (cell (k + 1))) ∧
    (s.mem.readWord (cell 1)).getLsbD 15 = false ∧
    { s.cfg with hopCap := some 1 }.hopCap = some 1 ∧ { s.cfg with hopCap := some 2 }.hopCap = some (1 + 1) := by decide

theorem witness_ChainsWriteOnlyAutoIndexCells : (memState 0o1000 zero 0o20 0xFFFF).mem.wf = true ∧ 31 < 32 ∧ 64 ≤ 64 := by
  decide

/-- The premises on an instruction through the page-zero cell `a` that holds its own address with bit 15 set. -/
def loopPremises (i : Instr) (a : Addr) (v : Word) : Prop :=
  let s := memState 0o1000 zero a v
  let m : EaFields := ⟨true, .pageZero, a.setWidth 8⟩
  i ∈ [Instr.jmp m, .jsr m, .isz m, .dsz m, .lda .ac3 m, .sta .ac3 m] ∧ m.ind = true ∧
    maskAddr (s.modeAddress m) = a ∧ (a.toNat < 0o20 ∨ 0o37 < a.toNat) ∧
    s.mem.readWord a = 0x8000#16 ||| zext a ∧ s.cfg.hopCap ≠ none

/-- On both sides of the auto-index cells, with a finite HOP_CAP and with none. -/
theorem witness_EndlessChainStopsTheCore :
    loopPremises (.jmp ⟨true, .pageZero, 0o17⟩) 0o17 0o100017 ∧
    loopPremises (.sta .ac3 ⟨true, .pageZero, 0o40⟩) 0o40 0o100040 ∧
    ({ std.cfg with hopCap := none } : Config).hopCap = none := by
  simp only [loopPremises]
  decide

/-- Part 3, JMP @20: the resolution ends, having written the cell. -/
theorem witness_JumpsAndLoads :
    (memState 0o1000 zero 0o20 0x0400).resolve ⟨true, .pageZero, 0o20⟩ =
      .ends 0o2001 ((memState 0o1000 zero 0o20 0x0400).mem.writeWord 0o20 0x0401) := by decide

/-- A store through an auto-index cell to that cell itself (R151: `ISZ @20` with M[0o20] = 0o17). -/
theorem witness_StaStoresTheAccumulator :
    (memState 0o1000 zero 0o20 0o17).mem.wf = true ∧
    (memState 0o1000 zero 0o20 0o17).resolve ⟨true, .pageZero, 0o20⟩ =
      .ends 0o20 ((memState 0o1000 zero 0o20 0o17).mem.writeWord 0o20 0o20) := by decide

theorem witness_IszDszCountAndSkip :
    (memState 0o1000 zero 0o50 0xFFFF).mem.wf = true ∧
    (memState 0o1000 zero 0o50 0xFFFF).resolve ⟨false, .pageZero, 0o50⟩ =
      .ends 0o50 (memState 0o1000 zero 0o50 0xFFFF).mem := by decide

theorem witness_ControlFieldStartsAndClears :
    (devState .done .idle .idle).dev 0o10 = some ⟨0o10, 3, .done, .reader 0x61 true⟩ ∧
    (Ctl.start, DevState.busy) ∈ [(Ctl.start, DevState.busy), (Ctl.clear, DevState.idle)] ∧
    (Ctl.clear, DevState.idle) ∈ [(Ctl.start, DevState.busy), (Ctl.clear, DevState.idle)] := by decide

theorem witness_InputsWithoutDataTakeAFreeValue :
    (devState .done .idle .idle).dev 0o14 = some ⟨0o14, 6, .idle, .rtc 0⟩ := by decide

/-- A reader, and a controller that is none. -/
theorem witness_DiaReadsTheInputWord :
    (∃ c, (devState .done .idle .idle).dev 0o10 = some c ∧ c.unit = .reader 0x61 true) ∧
    (∃ c, (devState .done .idle .idle).dev 0o11 = some c ∧ ∀ w attached, c.unit ≠ .reader w attached) :=
  ⟨⟨_, rfl, rfl⟩, ⟨_, rfl, fun _ _ => by simp⟩⟩

/-- A controller of each kind. -/
theorem witness_DoaLatchesTheOutputWord :
    std.dev 0o10 = some ⟨0o10, 3, .idle, .reader 0 true⟩ ∧ std.dev 0o11 = some ⟨0o11, 4, .idle, .writer 0 true []⟩ ∧
    std.dev 0o14 = some ⟨0o14, 6, .idle, .rtc 0⟩ := by decide

theorem witness_AbsentDeviceIsIgnored : std.dev 0o50 = none ∧ std.dev 0 = none ∧ std.dev 0o76 = none := by decide

theorem witness_SkpTestsBusyAndDone :
    (devState .done .busy .idle).dev 0o10 = some ⟨0o10, 3, .done, .reader 0x61 true⟩ ∧
    (devState .done .busy .idle).dev 0o11 = some ⟨0o11, 4, .busy, .writer 0 true []⟩ ∧
    (devState .done .busy .idle).dev 0o14 = some ⟨0o14, 6, .idle, .rtc 0⟩ := by decide

/-- No controller; one that is not Busy; one that is. -/
theorem witness_CompletionMakesDoneAndRequests :
    std.dev 0o50 = none ∧
    (devState .busy .done .idle).dev 0o11 = some ⟨0o11, 4, .done, .writer 0 true []⟩ ∧
    (devState .busy .done .idle).dev 0o10 = some ⟨0o10, 3, .busy, .reader 0x61 true⟩ := by decide

theorem witness_CpuControlField :
    (fun f => Instr.doaCpu .ac1 f) = (fun f => Instr.nioCpu .ac1 f) ∨
    (fun f => Instr.doaCpu .ac1 f) = (fun f => Instr.doaCpu .ac1 f) := .inr rfl

/-- No request honoured; the lowest honoured code above a masked one. -/
theorem witness_IntaAnswersTheLowestHonouredCode :
    (∀ d : DevCode, (std.req.getLsbD d.toNat && !std.dis.getLsbD d.toNat) = false) ∧
    (let s := { devState .done .done .idle with dis := devBit 0o10 }
     s.req.getLsbD 0o11 = true ∧ s.dis.getLsbD 0o11 = false ∧
     ∀ d' : DevCode, d'.toNat < 0o11 → (s.req.getLsbD d'.toNat && !s.dis.getLsbD d'.toNat) = false) := by
  decide

/-- A table with distinct priorities, and one with a collision. -/
theorem witness_MskoReplacesTheDisableSet :
    (std.devices.map fun c => c.priority).Nodup ∧
    ¬ ((({ std with devices := [⟨0o10, 3, .idle, .rtc 0⟩, ⟨0o11, 3, .idle, .rtc 0⟩] } : State).devices.map
      fun c => c.priority).Nodup) := by decide

theorem witness_HaltTakesNoInterrupt :
    let s := withWords { pending with ion := true } 0o100 [0o063077]
    s.run = .running ∧ s.agenda = [] ∧ s.honoured ≠ 0 ∧
    decode s.cfg.mdvPresent (s.mem.readWord s.pc) = .halt .ac0 .none := by decide

/-- Both clauses at the point where they meet: AC0 = AC2 overflows, AC0 = AC2 - 1 does not. -/
theorem witness_DivIsUnsignedDivide :
    ({ std with acs := ⟨5, 1, 5, 0⟩ } : State).acs.ac2.toNat ≤ ({ std with acs := ⟨5, 1, 5, 0⟩ } : State).acs.ac0.toNat ∧
    ({ std with acs := ⟨4, 1, 5, 0⟩ } : State).acs.ac0.toNat < ({ std with acs := ⟨4, 1, 5, 0⟩ } : State).acs.ac2.toNat := by
  decide

theorem witness_MulThenDivRestores :
    ({ std with acs := ⟨0, 300, 200, 0⟩ } : State).acs.ac0 = 0 ∧ ({ std with acs := ⟨0, 300, 200, 0⟩ } : State).acs.ac2 ≠ 0 := by
  decide

theorem witness_MdvWithOtherAccumulatorIsRefused : Ac.ac1 ≠ .ac2 ∧ Ac.ac3 ≠ .ac2 := by decide

theorem witness_ConsoleResetLeaves :
    ({ pending with agenda := [.console .reset, .core []] } : State).agenda = .console .reset :: [.core []] := by decide

/-- Stopped, and running. -/
theorem witness_DepositThenExamine :
    let s := { State.reset with agenda := [.console (.deposit 0xFFFF 5), .console (.examine 0xFFFF)] }
    s.agenda = .console (.deposit 0xFFFF 5) :: .console (.examine 0xFFFF) :: [] ∧ s.run = .stopped ∧ s.mem.wf = true ∧
    ({ s with run := .running } : State).run = .running := by decide

end Sys2Proof.Tests
end

section
/-! No step changes the parameters of R6 or which controllers are installed. `SameInstalled` relates two states that agree
on both; each operation of the model is shown once to stay in it, then `exec`, the console and `step`. -/

namespace Sys2Proof.Machine

/-! ## States with the same parameters and controllers -/

/-- `t` has the parameters of `s`, and the same controllers are installed: each code with its kind and priority. -/
def SameInstalled (s t : State) : Prop := t.cfg = s.cfg ∧ tableKey t.devices = tableKey s.devices

theorem SameInstalled.refl (s : State) : SameInstalled s s := ⟨rfl, rfl⟩

theorem SameInstalled.trans {s t u : State} (h : SameInstalled s t) (h' : SameInstalled t u) : SameInstalled s u :=
  ⟨h'.1.trans h.1, h'.2.trans h.2⟩

/-- Every next state that the outcome `r` answers has the parameters and controllers of `s`. -/
def KeepsInstalled (s : State) (r : Result) : Prop := ∀ t, r = .next t → SameInstalled s t

theorem keepsInstalled_next {s t : State} : KeepsInstalled s (.next t) ↔ SameInstalled s t := by
  simp [KeepsInstalled]

theorem keepsInstalled_fault (s : State) (e : Fault) : KeepsInstalled s (.fault e) := by simp [KeepsInstalled]

theorem keepsInstalled_refused (s : State) (e : Refusal) : KeepsInstalled s (.refused e) := by simp [KeepsInstalled]

theorem KeepsInstalled.of_sameInstalled {s t : State} {r : Result} (h' : KeepsInstalled t r) (h : SameInstalled s t) :
    KeepsInstalled s r := fun u hu => h.trans (h' u hu)

/-! ## Controllers -/

theorem sameInstalled_setDevState (s : State) (d : DevCode) (st : DevState) : SameInstalled s (s.setDevState d st) :=
  ⟨rfl, tableKey_setDevState s d st⟩

theorem sameInstalled_mapUnit {f : DevUnit → DevUnit} (hf : ∀ u, (f u).kind = u.kind) (s : State) (d : DevCode) :
    SameInstalled s (s.mapUnit d f) :=
  ⟨rfl, tableKey_mapUnit hf s d⟩

theorem sameInstalled_resetIo (s : State) : SameInstalled s s.resetIo := ⟨rfl, tableKey_resetAll s.devices⟩

theorem sameInstalled_control (s : State) (f : Ctl) (d : DevCode) : SameInstalled s (s.control f d) := by
  rcases s.control_cases f d with h | ⟨st, -, h⟩
  · rw [h]
    exact .refl s
  · rw [h]
    exact sameInstalled_setDevState s d st

theorem sameInstalled_tick (s : State) (c : Completion) : SameInstalled s (s.tick c) := by
  rcases s.tick_cases c with ⟨h, -⟩ | ⟨-, -, -, ⟨-, h⟩ | ⟨-, h⟩⟩
  · rw [h]
    exact .refl s
  · rw [h]
    exact sameInstalled_setDevState s c.code .idle
  · rw [h]
    have hact : SameInstalled s (s.mapUnit c.code fun u => u.act c.answer) :=
      sameInstalled_mapUnit (fun u => u.kind_act c.answer) s c.code
    exact hact.trans (sameInstalled_setDevState (s.mapUnit c.code fun u => u.act c.answer) c.code .done)

theorem sameInstalled_ticks (s : State) (l : List Completion) : SameInstalled s (s.ticks l) := by
  induction l generalizing s with
  | nil => exact .refl s
  | cons c rest ih => exact (sameInstalled_tick s c).trans (ih (s.tick c))

/-! ## The shared parts of instructions -/

theorem sameInstalled_cpuControl (s : State) (f : Ctl) : SameInstalled s (s.cpuControl f) := by
  rw [s.cpuControl_eq f]
  exact .refl s

theorem sameInstalled_ioInput (s : State) (data : Controller → Option Word) (ac : Ac) (f : Ctl) (d : DevCode) :
    SameInstalled s (s.ioInput data ac f d) := by
  rcases s.ioInput_cases data ac f d with ⟨-, h⟩ | ⟨-, w, -, -, h⟩ | ⟨-, -, -, h⟩
  · rw [h]
    exact .refl s
  · rw [h]
    exact sameInstalled_control (s.setAc ac w) f d
  · rw [h]
    exact sameInstalled_control (s.setAc ac s.drawnWord).countDraw f d

theorem sameInstalled_ioOutputA (s : State) (ac : Ac) (f : Ctl) (d : DevCode) :
    SameInstalled s (s.ioOutputA ac f d) := by
  rcases s.ioOutputA_cases ac f d with ⟨-, h⟩ | ⟨-, -, h⟩
  · rw [h]
    exact .refl s
  · rw [h]
    exact (sameInstalled_mapUnit (fun u => u.kind_outputA (s.ac ac)) s d).trans (sameInstalled_control _ f d)

theorem sameInstalled_ioOutputNone (s : State) (f : Ctl) (d : DevCode) : SameInstalled s (s.ioOutputNone f d) := by
  rcases s.ioOutputNone_cases f d with ⟨-, h⟩ | ⟨-, -, h⟩
  · rw [h]
    exact .refl s
  · rw [h]
    exact sameInstalled_control s f d

/-- A memory reference keeps what its operation keeps: the hops write memory alone, and so the IndirectLoop stop keeps the
controllers too. -/
theorem keepsInstalled_atAddress {s : State} {m : EaFields} {k : Addr → State → State}
    (hk : ∀ e t, SameInstalled t (k e t)) : KeepsInstalled s (s.atAddress m k) := by
  intro t h
  rcases State.atAddress_cases h with ⟨e, m', -, rfl⟩ | ⟨m', -, -, rfl⟩
  · exact hk e { s with mem := m' }
  · exact .refl s

/-! ## Instructions -/

theorem keepsInstalled_div (s : State) : KeepsInstalled s (execDiv s) := by
  unfold execDiv
  split <;> exact keepsInstalled_next.2 (.refl s)

theorem keepsInstalled_msko (ac : Ac) (f : Ctl) (s : State) : KeepsInstalled s (execMsko ac f s) := by
  unfold execMsko
  split
  · exact keepsInstalled_next.2 (sameInstalled_cpuControl { s with dis := maskSet s.cfg (s.ac ac) s.devices } f)
  · exact keepsInstalled_refused s _

/-- No instruction changes the parameters or which controllers are installed (R34). -/
theorem keepsInstalled_exec (i : Instr) (s : State) : KeepsInstalled s (exec i s) := by
  cases i with
  | com _ | neg _ | mov _ | inc _ | adc _ | sub _ | add _ | and _ => exact keepsInstalled_next.2 (.refl s)
  | jmp _ | jsr _ | isz _ | dsz _ | lda _ _ | sta _ _ =>
    simp only [exec]
    exact keepsInstalled_atAddress fun _ _ => ⟨rfl, rfl⟩
  | mul | skpMdv _ _ | otherMdv _ _ _ => exact keepsInstalled_next.2 (.refl s)
  | div => exact keepsInstalled_div s
  | docMdv _ _ => exact keepsInstalled_refused s _
  | nioCpu _ f | doaCpu _ f | halt _ f => exact keepsInstalled_next.2 (sameInstalled_cpuControl s f)
  | reads ac f => exact keepsInstalled_next.2 (sameInstalled_cpuControl (s.setAc ac s.sr) f)
  | inta ac f => exact keepsInstalled_next.2 (sameInstalled_cpuControl (s.setAc ac (lowestCode s.honoured)) f)
  | msko ac f => exact keepsInstalled_msko ac f s
  | iorst _ f => exact keepsInstalled_next.2 ((sameInstalled_resetIo s).trans (sameInstalled_cpuControl s.resetIo f))
  | skpbnCpu _ | skpbzCpu _ | skpdnCpu _ | skpdzCpu _ => exact keepsInstalled_next.2 (.refl s)
  | nio ac f d | dib ac f d | dic ac f d => exact keepsInstalled_next.2 (sameInstalled_ioInput s inputNone ac f d)
  | dia ac f d => exact keepsInstalled_next.2 (sameInstalled_ioInput s inputA ac f d)
  | doa ac f d => exact keepsInstalled_next.2 (sameInstalled_ioOutputA s ac f d)
  | dob _ f d | doc _ f d => exact keepsInstalled_next.2 (sameInstalled_ioOutputNone s f d)
  | skp _ _ _ => exact keepsInstalled_next.2 (.refl s)

/-! ## The instruction step -/

theorem keepsInstalled_interruptCheck (s : State) : KeepsInstalled s s.interruptCheck := by
  rcases s.interruptCheck_cases with ⟨h, -⟩ | ⟨h, -, -⟩
  · rw [h]
    exact keepsInstalled_next.2 (.refl s)
  · rw [h]
    intro t ht
    rcases State.interruptSequence_cases ht with ⟨e, m, -, rfl⟩ | ⟨m, -, rfl⟩
    · exact .refl s
    · exact .refl s

theorem keepsInstalled_finish (s : State) (mid : List Completion) : KeepsInstalled s (s.finish mid) := by
  rcases s.finish_cases mid with ⟨-, h⟩ | ⟨-, h⟩
  · rw [h]
    exact (keepsInstalled_interruptCheck (s.ticks mid)).of_sameInstalled (sameInstalled_ticks s mid)
  · rw [h]
    exact keepsInstalled_next.2 (.refl s)

theorem keepsInstalled_instrStep (s : State) (mid : List Completion) : KeepsInstalled s (s.instrStep mid) := by
  intro u h
  obtain ⟨t, hexec, hfinish⟩ := finishResult_next h
  exact (keepsInstalled_exec s.fetched s.begun t hexec).trans (keepsInstalled_finish t mid u hfinish)

/-! ## The console -/

theorem sameInstalled_conAttach (s : State) (d : DevCode) : SameInstalled s (s.conAttach d) := by
  unfold State.conAttach
  split
  · exact .refl s
  · split
    · exact sameInstalled_mapUnit DevUnit.kind_attach s d
    · exact sameInstalled_mapUnit DevUnit.kind_attach s d
    · exact .refl s

theorem sameInstalled_conWaitForHalt (s : State) : SameInstalled s s.conWaitForHalt := by
  unfold State.conWaitForHalt
  split <;> exact .refl s

theorem keepsInstalled_conProgramLoad (s : State) : KeepsInstalled s s.conProgramLoad := by
  unfold State.conProgramLoad
  split
  · exact keepsInstalled_refused s _
  · exact keepsInstalled_next.2 (.refl s)

/-- InstStep keeps what its instruction step keeps; around it the run state, the latch and the outputs change alone. -/
theorem keepsInstalled_conInstStep (s : State) (mid : List Completion) : KeepsInstalled s (s.conInstStep mid) := by
  have hstep : KeepsInstalled s (s.beginRun.instrStep mid) := keepsInstalled_instrStep s.beginRun mid
  unfold State.conInstStep
  cases h : s.beginRun.instrStep mid with
  | next t => exact keepsInstalled_next.2 (hstep t h)
  | fault e => exact keepsInstalled_fault s e
  | refused e => exact keepsInstalled_refused s e

theorem KeepsInstalled.whenStopped {s : State} {r : Result} (h : KeepsInstalled s r) :
    KeepsInstalled s (s.whenStopped r) := by
  rcases s.whenStopped_cases r with ⟨-, hr⟩ | ⟨-, hr⟩
  · rwa [hr]
  · rw [hr]
    exact keepsInstalled_next.2 (.refl s)

/-- No console request changes the parameters or which controllers are installed: Attach gives a stream to a controller
that is there (R279), and Reset leaves the controllers Idle (R303). -/
theorem keepsInstalled_console (s : State) (op : ConsoleOp) : KeepsInstalled s (s.console op) := by
  cases op with
  | start _ | resume | deposit _ _ | depositNext _ | examine _ | examineNext | loadMemory _ _ =>
    exact .whenStopped (keepsInstalled_next.2 ⟨rfl, rfl⟩)
  | stop | switches _ | status => exact keepsInstalled_next.2 (.refl s)
  | reset => exact keepsInstalled_next.2 (sameInstalled_resetIo s)
  | instStep mid => exact (keepsInstalled_conInstStep s mid).whenStopped
  | programLoad => exact (keepsInstalled_conProgramLoad s).whenStopped
  | attach d => exact (keepsInstalled_next.2 (sameInstalled_conAttach s d)).whenStopped
  | waitForHalt => exact keepsInstalled_next.2 (sameInstalled_conWaitForHalt s)

/-! ## The step -/

theorem keepsInstalled_step (s : State) : KeepsInstalled s (step s) := by
  obtain ⟨l, ⟨mid, -, h⟩ | ⟨-, h⟩ | ⟨c, h⟩ | ⟨op, h⟩⟩ := step_cases s
  · rw [h]
    exact keepsInstalled_instrStep { s with agenda := l } mid
  · rw [h]
    exact keepsInstalled_next.2 (.refl s)
  · rw [h]
    exact keepsInstalled_next.2 (sameInstalled_tick { s with agenda := l } c)
  · rw [h]
    exact keepsInstalled_console { s with agenda := l } op

/-- Settles O15, from the four turns a step can be. -/
theorem stepKeepsInstalledDevices : Obligations.StepKeepsInstalledDevices := keepsInstalled_step

end Sys2Proof.Machine
end

section
/-! What an instruction may change. `ExecEffect` lists, for every way an instruction can end with a next state, the
fields it writes; `exec_effect` shows it of every instruction once. The frames of the state's registers (R20 to R35) and
the preservation of the invariant by the execute phase are read off it. -/

namespace Sys2Proof.Machine

/-! ## The effects -/

/-- The accumulators `r` differ from those of `s` only where the table of R20 lets `i` write. -/
def AcsAsTabled (i : Instr) (s : State) (r : Accs) : Prop := ∀ j, mayWrite i j = false → r.get j = s.acs.get j

/-- The memory `m` is canonical if that of `s` is. -/
def KeepsCanonical (s : State) (m : Memory) : Prop := s.mem.wf = true → m.wf = true

/-- What executing an instruction in a state may lead to:
- new accumulators, PC and carry;
- for a memory reference, new accumulators, PC and memory, or the IndirectLoop stop (R147);
- for an I/O transfer, a word taken from or given to a controller, and then its control field (R172);
- for the CPU device, the data operation and then the control field (R211). -/
inductive ExecEffect : Instr → State → State → Prop
  | registers {i : Instr} {s : State} (acs : Accs) (pc : Addr) (carry : Bool) (hacs : AcsAsTabled i s acs) :
      ExecEffect i s { s with acs := acs, pc := pc, carry := carry }
  | memRef {i : Instr} {s : State} (acs : Accs) (pc : Addr) (mem : Memory) (hi : isMemRef i = true)
      (hacs : AcsAsTabled i s acs) (hmem : KeepsCanonical s mem) :
      ExecEffect i s { s with acs := acs, pc := pc, mem := mem }
  | indirectLoop {i : Instr} {s : State} (mem : Memory) (hi : isMemRef i = true) (hmem : KeepsCanonical s mem) :
      ExecEffect i s { s with mem := mem, latch := .indirectLoop, run := .stopped }
  | deviceIo {i : Instr} {s : State} (acs : Accs) (draws : Nat) (g : DevUnit → DevUnit) (f : Ctl) (d : DevCode)
      (hi : isDeviceIo i = true) (hacs : AcsAsTabled i s acs) (hg : ∀ u, (g u).kind = u.kind) :
      ExecEffect i s ((State.mapUnit { s with acs := acs, draws := draws } d g).control f d)
  | cpu {i : Instr} {s : State} (acs : Accs) (f : Ctl) (hi : isCpuControl i = true) (hacs : AcsAsTabled i s acs) :
      ExecEffect i s (State.cpuControl { s with acs := acs } f)
  | msko {s : State} (ac : Ac) (f : Ctl) (m : Word) :
      ExecEffect (.msko ac f) s (State.cpuControl { s with dis := maskSet s.cfg m s.devices } f)
  | iorst {s : State} (ac : Ac) (f : Ctl) : ExecEffect (.iorst ac f) s (s.resetIo.cpuControl f)
  | halt {s : State} (ac : Ac) (f : Ctl) : ExecEffect (.halt ac f) s (s.cpuControl f).haltRun

/-- Every next state that the outcome `r` answers is an effect of `i` in `s`. -/
def HasEffect (i : Instr) (s : State) (r : Result) : Prop := ∀ t, r = .next t → ExecEffect i s t

theorem hasEffect_next {i : Instr} {s t : State} : HasEffect i s (.next t) ↔ ExecEffect i s t := by
  simp [HasEffect]

theorem AcsAsTabled.refl (i : Instr) (s : State) : AcsAsTabled i s s.acs := fun _ _ => rfl

/-- A write to one accumulator is as tabled when the table gives it to the instruction. -/
theorem acsAsTabled_set {i : Instr} {ac : Ac} (h : mayWrite i ac = true) (s : State) (v : Word) :
    AcsAsTabled i s (s.acs.set ac v) := by
  intro j hj
  have hne : ac ≠ j := by
    rintro rfl
    simp [h] at hj
  simp [hne]

/-! ## Shared parts of instructions -/

theorem execEffect_refl (i : Instr) (s : State) : ExecEffect i s s := .registers s.acs s.pc s.carry (.refl i s)

/-- The ALC data path writes its destination, carry and PC (R100, R108). -/
theorem execEffect_alc {i : Instr} {a : AlcFields} (h : ∀ j, mayWrite i j = (!a.nl && a.acd == j)) (s : State)
    (fn : Word → Word → Alu) : ExecEffect i s (s.alc fn a) := by
  refine .registers (s.alc fn a).acs (s.alc fn a).pc (s.alc fn a).carry fun j hj => ?_
  rw [h] at hj
  cases hnl : a.nl with
  | true => simp [State.alc, hnl]
  | false =>
    have hne : a.acd ≠ j := by simpa [hnl] using hj
    simp [State.alc, hnl, hne]

theorem execEffect_skipIf (i : Instr) (s : State) (b : Bool) : ExecEffect i s (s.skipIf b) :=
  .registers s.acs (s.skipIf b).pc s.carry (.refl i s)

/-- A memory reference has the effect of its operation over the memory its hops left, or the IndirectLoop stop. -/
theorem hasEffect_atAddress {i : Instr} {s : State} {k : Addr → State → State} (hi : isMemRef i = true)
    (m : EaFields) (hk : ∀ e m', KeepsCanonical s m' → ExecEffect i s (k e { s with mem := m' })) :
    HasEffect i s (s.atAddress m k) := by
  intro t h
  have hmem : KeepsCanonical s (s.resolve m).memory := fun hw => State.wf_resolve hw m
  rcases State.atAddress_cases h with ⟨e, m', hr, rfl⟩ | ⟨m', hr, -, rfl⟩
  · rw [hr] at hmem
    exact hk e m' hmem
  · rw [hr] at hmem
    exact .indirectLoop m' hi hmem

theorem State.mapUnit_id (s : State) (d : DevCode) : s.mapUnit d id = s := by
  simp [State.mapUnit, updateCode]

/-- A transfer that gives the controller no data. -/
theorem execEffect_control {i : Instr} {s : State} {r : Accs} (hi : isDeviceIo i = true) (hacs : AcsAsTabled i s r)
    (draws : Nat) (f : Ctl) (d : DevCode) : ExecEffect i s (State.control { s with acs := r, draws := draws } f d) := by
  have h := ExecEffect.deviceIo r draws id f d hi hacs fun _ => rfl
  rwa [State.mapUnit_id] at h

theorem execEffect_ioInput {i : Instr} {ac : Ac} (hi : isDeviceIo i = true) (hac : mayWrite i ac = true) (s : State)
    (data : Controller → Option Word) (f : Ctl) (d : DevCode) : ExecEffect i s (s.ioInput data ac f d) := by
  rcases s.ioInput_cases data ac f d with ⟨-, h⟩ | ⟨-, w, -, -, h⟩ | ⟨-, -, -, h⟩
  · rw [h]
    exact execEffect_refl i s
  · rw [h]
    exact execEffect_control hi (acsAsTabled_set hac s w) s.draws f d
  · rw [h]
    exact execEffect_control hi (acsAsTabled_set hac s s.drawnWord) (s.draws + 1) f d

theorem execEffect_ioOutputA {i : Instr} (hi : isDeviceIo i = true) (s : State) (ac : Ac) (f : Ctl) (d : DevCode) :
    ExecEffect i s (s.ioOutputA ac f d) := by
  rcases s.ioOutputA_cases ac f d with ⟨-, h⟩ | ⟨-, -, h⟩
  · rw [h]
    exact execEffect_refl i s
  · rw [h]
    exact .deviceIo s.acs s.draws _ f d hi (.refl i s) fun u => u.kind_outputA (s.ac ac)

theorem execEffect_ioOutputNone {i : Instr} (hi : isDeviceIo i = true) (s : State) (f : Ctl) (d : DevCode) :
    ExecEffect i s (s.ioOutputNone f d) := by
  rcases s.ioOutputNone_cases f d with ⟨-, h⟩ | ⟨-, -, h⟩
  · rw [h]
    exact execEffect_refl i s
  · rw [h]
    exact execEffect_control hi (.refl i s) s.draws f d

/-! ## Instructions -/

/-- MUL writes AC0 and AC1 (R232). -/
theorem hasEffect_mul (s : State) : HasEffect .mul s (execMul s) := by
  refine hasEffect_next.2 (.registers _ s.pc s.carry fun j hj => ?_)
  cases j with
  | ac0 | ac1 => cases hj
  | ac2 | ac3 => rfl

/-- DIV writes carry, and AC0 and AC1 unless it overflows (R233). -/
theorem hasEffect_div (s : State) : HasEffect .div s (execDiv s) := by
  unfold execDiv
  split
  · exact hasEffect_next.2 (.registers s.acs s.pc true (.refl _ s))
  · refine hasEffect_next.2 (.registers _ s.pc false fun j hj => ?_)
    cases j with
    | ac0 | ac1 => cases hj
    | ac2 | ac3 => rfl

theorem hasEffect_msko (ac : Ac) (f : Ctl) (s : State) : HasEffect (.msko ac f) s (execMsko ac f s) := by
  unfold execMsko
  split
  · exact hasEffect_next.2 (.msko ac f (s.ac ac))
  · simp [HasEffect]

/-- Everything an instruction can do to the state. -/
theorem exec_effect (i : Instr) (s : State) : HasEffect i s (exec i s) := by
  cases i with
  | com _ | neg _ | mov _ | inc _ | adc _ | sub _ | add _ | and _ =>
    exact hasEffect_next.2 (execEffect_alc (fun _ => rfl) s _)
  | jmp m =>
    simp only [exec]
    refine hasEffect_atAddress rfl m fun e m' hm => ?_
    exact .memRef s.acs e m' rfl (.refl _ s) hm
  | jsr m =>
    simp only [exec]
    refine hasEffect_atAddress rfl m fun e m' hm => ?_
    exact .memRef _ e m' rfl (acsAsTabled_set rfl s (zext s.pc)) hm
  | isz m | dsz m =>
    simp only [exec]
    refine hasEffect_atAddress rfl m fun e m' hm => ?_
    exact .memRef s.acs _ _ rfl (.refl _ s) fun hw => Memory.wf_writeWord (hm hw) e _
  | lda ac m =>
    simp only [exec]
    refine hasEffect_atAddress rfl m fun e m' hm => ?_
    exact .memRef _ s.pc m' rfl (acsAsTabled_set (by simp [mayWrite]) s (m'.readWord e)) hm
  | sta ac m =>
    simp only [exec]
    refine hasEffect_atAddress rfl m fun e m' hm => ?_
    exact .memRef s.acs s.pc _ rfl (.refl _ s) fun hw => Memory.wf_writeWord (hm hw) e (s.ac ac)
  | mul => exact hasEffect_mul s
  | div => exact hasEffect_div s
  | docMdv _ _ => simp [HasEffect, exec, execDocMdv]
  | skpMdv _ t => exact hasEffect_next.2 (execEffect_skipIf _ s (testIdle t))
  | otherMdv _ _ _ | skpdnCpu _ => exact hasEffect_next.2 (execEffect_refl _ s)
  | nioCpu _ f | doaCpu _ f => exact hasEffect_next.2 (.cpu s.acs f rfl (.refl _ s))
  | reads ac f => exact hasEffect_next.2 (.cpu _ f rfl (acsAsTabled_set (by simp [mayWrite]) s s.sr))
  | inta ac f =>
    exact hasEffect_next.2 (.cpu _ f rfl (acsAsTabled_set (by simp [mayWrite]) s (lowestCode s.honoured)))
  | msko ac f => exact hasEffect_msko ac f s
  | iorst ac f => exact hasEffect_next.2 (.iorst ac f)
  | halt ac f => exact hasEffect_next.2 (.halt ac f)
  | skpbnCpu _ => exact hasEffect_next.2 (execEffect_skipIf _ s s.ion)
  | skpbzCpu _ => exact hasEffect_next.2 (execEffect_skipIf _ s (!s.ion))
  | skpdzCpu _ => exact hasEffect_next.2 (execEffect_skipIf _ s true)
  | nio ac f d | dib ac f d | dic ac f d =>
    exact hasEffect_next.2 (execEffect_ioInput rfl (by simp [mayWrite]) s inputNone f d)
  | dia ac f d => exact hasEffect_next.2 (execEffect_ioInput rfl (by simp [mayWrite]) s inputA f d)
  | doa ac f d => exact hasEffect_next.2 (execEffect_ioOutputA rfl s ac f d)
  | dob _ f d | doc _ f d => exact hasEffect_next.2 (execEffect_ioOutputNone rfl s f d)
  | skp _ t d => exact hasEffect_next.2 (execEffect_skipIf _ s (s.ioTest t d))

/-! ## The frames of the registers -/

/-- The control field of a transfer touches the controllers and REQ alone (R270). -/
theorem State.control_frame (s : State) (f : Ctl) (d : DevCode) :
    s.control f d = { s with devices := (s.control f d).devices, req := (s.control f d).req } := by
  cases f <;> rfl

/-- Settles O20, from the accumulators of each effect. -/
theorem accumulatorsWrittenAsTabled : Obligations.AccumulatorsWrittenAsTabled := by
  intro i s t j h hj
  cases exec_effect i s t h with
  | registers _ _ _ hacs | memRef _ _ _ _ hacs => exact hacs j hj
  | indirectLoop => rfl
  | deviceIo _ _ _ _ _ _ hacs =>
    rw [State.control_frame]
    exact hacs j hj
  | cpu _ _ _ hacs =>
    rw [State.cpuControl_eq]
    exact hacs j hj
  | msko | iorst | halt =>
    rw [State.cpuControl_eq]
    rfl

/-- No control field of the CPU device turns ION on at once (R207). -/
theorem State.ion_of_cpuControl {s : State} {f : Ctl} (h : (s.cpuControl f).ion = true) : s.ion = true := by
  cases f with
  | none | start | pulse => exact h
  | clear => cases h

/-- Settles O19: of all effects only the control field of the CPU device reaches ION and ION-pending, and what it sets
is ION-pending. -/
theorem enableFlagsBelongToCpuDevice : Obligations.EnableFlagsBelongToCpuDevice := by
  intro i s t h
  cases exec_effect i s t h with
  | registers | memRef | indirectLoop => exact ⟨id, fun _ => ⟨rfl, rfl⟩⟩
  | deviceIo =>
    rw [State.control_frame]
    exact ⟨id, fun _ => ⟨rfl, rfl⟩⟩
  | cpu _ _ hi => exact ⟨State.ion_of_cpuControl, by simp [hi]⟩
  | msko | halt => exact ⟨State.ion_of_cpuControl, nofun⟩
  | iorst =>
    have hoff : s.resetIo.ion ≠ true := by simp
    exact ⟨fun hion => absurd (State.ion_of_cpuControl hion) hoff, nofun⟩

/-- Settles O22, from the fields that each effect names. -/
theorem systemStateWrittenAsTabled : Obligations.SystemStateWrittenAsTabled := by
  intro i s t h
  cases exec_effect i s t h with
  | registers => simp
  | memRef _ _ _ hi | indirectLoop _ hi => simp [hi]
  | deviceIo _ _ _ _ _ hi =>
    rw [State.control_frame]
    simp [hi]
  | cpu | msko | iorst | halt => simp [State.cpuControl_eq, isDeviceIo]

end Sys2Proof.Machine
end

section
/-! The invariant holds at reset, and every operation of a step keeps it. What a request bit says (R35) is the part that
operations on controllers can break; `SameInstalled` carries the device table and the mask over. -/

namespace Sys2Proof.Machine

/-! ## Request bits -/

/-- A code's request bit says whether the controller there is Done (R35). -/
def RequestsMatch (s : State) : Prop := ∀ d : DevCode, s.req.getLsbD d.toNat = s.isDone d

theorem State.isDone_setDevState (s : State) (d d' : DevCode) (st : DevState) :
    (s.setDevState d st).isDone d' = if d' = d then (s.dev d').isSome && st == .done else s.isDone d' := by
  by_cases hd : d' = d
  · cases h : s.dev d' <;> simp_all [State.isDone]
  · simp [State.isDone, hd]

@[simp] theorem State.isDone_mapUnit (s : State) (d d' : DevCode) (g : DevUnit → DevUnit) :
    (s.mapUnit d g).isDone d' = s.isDone d' := by
  by_cases hd : d' = d
  · cases h : s.dev d' <;> simp_all [State.isDone]
  · simp [State.isDone, hd]

@[simp] theorem State.isDone_resetIo (s : State) (d : DevCode) : s.resetIo.isDone d = false := by
  cases h : s.dev d <;> simp [State.isDone, h]

/-- S and C take a controller out of Done and drop its request (R271, R272). -/
theorem requestsMatch_drop {s : State} (h : RequestsMatch s) (d : DevCode) {st : DevState} (hst : st ≠ .done) :
    RequestsMatch ((s.setDevState d st).clearReq d) := by
  intro d'
  have hdone : ((s.setDevState d st).clearReq d).isDone d' = (s.setDevState d st).isDone d' := rfl
  rw [hdone, State.req_clearReq, State.setDevState_req, h d', State.isDone_setDevState]
  by_cases hd : d' = d <;> simp [hd, hst]

/-- A completion takes an installed controller to Done and raises its request in one action (R35, R274). -/
theorem requestsMatch_raise {s : State} (h : RequestsMatch s) {d : DevCode} (hc : (s.dev d).isSome = true) :
    RequestsMatch ((s.setDevState d .done).setReq d) := by
  intro d'
  have hdone : ((s.setDevState d .done).setReq d).isDone d' = (s.setDevState d .done).isDone d' := rfl
  rw [hdone, State.req_setReq, State.setDevState_req, h d', State.isDone_setDevState]
  by_cases hd : d' = d <;> simp [hd, hc]

theorem requestsMatch_mapUnit {s : State} (h : RequestsMatch s) (d : DevCode) (g : DevUnit → DevUnit) :
    RequestsMatch (s.mapUnit d g) := fun d' => by rw [State.isDone_mapUnit, State.mapUnit_req, h d']

theorem requestsMatch_resetIo (s : State) : RequestsMatch s.resetIo := fun d => by simp

/-- The empty disable set is the one of the mask 0 (R31). -/
theorem maskSet_zero (cfg : Config) (l : List Controller) : maskSet cfg 0 l = 0 := by
  induction l with
  | nil => rfl
  | cons c rest ih => simpa [maskSet, maskedBy] using ih

/-! ## The invariant under a change of some fields -/

/-- The installed controllers carry the device table and the mask over; what is left to show is memory, requests and the
enable flags. -/
theorem State.Inv.of_sameInstalled {s t : State} (h : s.Inv) (hst : SameInstalled s t) (hdis : t.dis = s.dis)
    (hmem : t.mem.wf = true) (hreq : RequestsMatch t) (hen : t.ion = true → t.ionp = false) : t.Inv where
  memory := hmem
  table := by rw [hst.1, deviceTableOk_congr hst.2, h.table]
  requests := hreq
  enable := hen
  mask := by
    obtain ⟨m, hm⟩ := h.mask
    exact ⟨m, by rw [hdis, hm, hst.1, maskSet_congr hst.2]⟩

/-- The fields of the state, besides memory, that the invariant is about. -/
def State.invPart (s : State) : Config × List Controller × DevSet × DevSet × Bool × Bool :=
  (s.cfg, s.devices, s.req, s.dis, s.ion, s.ionp)

/-- The invariant sees memory and the fields of `invPart` alone. -/
theorem State.Inv.of_invPart {s t : State} (h : s.Inv) (hmem : t.mem.wf = true) (ht : t.invPart = s.invPart) :
    t.Inv := by
  simp only [State.invPart, Prod.mk.injEq] at ht
  obtain ⟨hcfg, hdev, hreq, hdis, hion, hionp⟩ := ht
  refine h.of_sameInstalled ⟨hcfg, by rw [hdev]⟩ hdis hmem (fun d => ?_) (by rw [hion, hionp]; exact h.enable)
  rw [hreq, h.requests d]
  simp only [State.isDone, State.dev_congr hdev]

theorem State.Inv.answer {s : State} (h : s.Inv) (r : Reply) : (s.answer r).Inv := h.of_invPart h.memory rfl

/-! ## The operations -/

theorem State.Inv.mapUnit {s : State} (h : s.Inv) (d : DevCode) {g : DevUnit → DevUnit}
    (hg : ∀ u, (g u).kind = u.kind) : (s.mapUnit d g).Inv :=
  h.of_sameInstalled (sameInstalled_mapUnit hg s d) rfl h.memory (requestsMatch_mapUnit h.requests d g) h.enable

/-- A controller leaves Done, or stays out of it, with its request dropped. -/
theorem State.Inv.drop {s : State} (h : s.Inv) (d : DevCode) {st : DevState} (hst : st ≠ .done) :
    ((s.setDevState d st).clearReq d).Inv :=
  h.of_sameInstalled (sameInstalled_setDevState s d st) rfl h.memory (requestsMatch_drop h.requests d hst) h.enable

theorem State.Inv.raise {s : State} (h : s.Inv) {d : DevCode} (hc : (s.dev d).isSome = true) :
    ((s.setDevState d .done).setReq d).Inv :=
  h.of_sameInstalled (sameInstalled_setDevState s d .done) rfl h.memory (requestsMatch_raise h.requests hc) h.enable

theorem State.Inv.control {s : State} (h : s.Inv) (f : Ctl) (d : DevCode) : (s.control f d).Inv := by
  rcases s.control_cases f d with hc | ⟨st, hst, hc⟩
  · rwa [hc]
  · rw [hc]
    exact h.drop d hst

/-- The control field of the CPU device sets ION-pending only with ION off (R36). -/
theorem State.Inv.cpuControl {s : State} (h : s.Inv) (f : Ctl) : (s.cpuControl f).Inv := by
  rw [s.cpuControl_eq f]
  refine h.of_sameInstalled ⟨rfl, rfl⟩ rfl h.memory h.requests fun hion => ?_
  cases f with
  | clear => rfl
  | none | start | pulse =>
    have hs : s.ion = true := hion
    simp [hs, h.enable hs]

theorem State.Inv.resetIo {s : State} (h : s.Inv) : s.resetIo.Inv where
  memory := h.memory
  table := (deviceTableOk_congr (tableKey_resetAll s.devices)).trans h.table
  requests := requestsMatch_resetIo s
  enable := fun _ => rfl
  mask := ⟨0, (maskSet_zero _ _).symm⟩

theorem State.Inv.tick {s : State} (h : s.Inv) (c : Completion) : (s.tick c).Inv := by
  rcases s.tick_cases c with ⟨ht, -⟩ | ⟨u, hu, -, ⟨-, ht⟩ | ⟨-, ht⟩⟩
  · rwa [ht]
  · rw [ht]
    exact h.drop c.code (by decide)
  · rw [ht]
    have hact : (s.mapUnit c.code fun u => u.act c.answer).Inv := h.mapUnit c.code fun u => u.kind_act c.answer
    exact hact.raise (by simp [hu])

theorem State.Inv.ticks {s : State} (h : s.Inv) (l : List Completion) : (s.ticks l).Inv := by
  induction l generalizing s with
  | nil => exact h
  | cons c rest ih => exact ih (h.tick c)

/-- Promotion leaves ION-pending off (R251). -/
theorem State.Inv.begun {s : State} (h : s.Inv) : s.begun.Inv :=
  h.of_sameInstalled ⟨rfl, rfl⟩ rfl h.memory h.requests fun _ => rfl

/-! ## The instruction step -/

theorem State.Inv.execEffect {i : Instr} {s t : State} (h : s.Inv) (he : ExecEffect i s t) : t.Inv := by
  cases he with
  | registers => exact h.of_invPart h.memory rfl
  | memRef _ _ _ _ _ hmem | indirectLoop _ _ hmem => exact h.of_invPart (hmem h.memory) rfl
  | deviceIo acs draws g f d _ _ hg =>
    have hregs : ({ s with acs := acs, draws := draws } : State).Inv := h.of_invPart h.memory rfl
    exact (hregs.mapUnit d hg).control f d
  | cpu acs f =>
    have hregs : ({ s with acs := acs } : State).Inv := h.of_invPart h.memory rfl
    exact hregs.cpuControl f
  | msko _ f m =>
    have hdis : ({ s with dis := maskSet s.cfg m s.devices } : State).Inv :=
      ⟨h.memory, h.table, h.requests, h.enable, m, rfl⟩
    exact hdis.cpuControl f
  | iorst _ f => exact h.resetIo.cpuControl f
  | halt _ f => exact (h.cpuControl f).of_invPart (h.cpuControl f).memory rfl

/-- Every next state that the outcome `r` answers meets the invariant. -/
def EndsInInv (r : Result) : Prop := ∀ t, r = .next t → t.Inv

theorem endsInInv_next {t : State} : EndsInInv (.next t) ↔ t.Inv := by simp [EndsInInv]

theorem State.Inv.exec {s : State} (h : s.Inv) (i : Instr) : EndsInInv (exec i s) :=
  fun t ht => h.execEffect (exec_effect i s t ht)

/-- Taking an interrupt turns ION off and writes memory through canonical operations (R262). -/
theorem State.Inv.interruptSequence {s : State} (h : s.Inv) : EndsInInv s.interruptSequence := by
  intro t ht
  have hsaved : (s.mem.writeWord 0 (zext s.pc)).wf = true := Memory.wf_writeWord h.memory 0 _
  have hchain := wf_chase hsaved (hopLimit s.cfg) 1
  have hion : ∀ e m run latch, m.wf = true →
      ({ s with ion := false, mem := m, pc := e, run := run, latch := latch } : State).Inv :=
    fun _ _ _ _ hm => h.of_sameInstalled ⟨rfl, rfl⟩ rfl hm h.requests nofun
  rcases State.interruptSequence_cases ht with ⟨e, m, hc, rfl⟩ | ⟨m, hc, rfl⟩
  · rw [hc] at hchain
    exact hion e m s.run s.latch hchain
  · rw [hc] at hchain
    exact hion s.pc m .stopped .indirectLoop hchain

theorem State.Inv.interruptCheck {s : State} (h : s.Inv) : EndsInInv s.interruptCheck := by
  rcases s.interruptCheck_cases with ⟨hc, -⟩ | ⟨hc, -, -⟩
  · rw [hc]
    exact endsInInv_next.2 h
  · rw [hc]
    exact h.interruptSequence

theorem State.Inv.finish {s : State} (h : s.Inv) (mid : List Completion) : EndsInInv (s.finish mid) := by
  rcases s.finish_cases mid with ⟨-, hf⟩ | ⟨-, hf⟩
  · rw [hf]
    exact (h.ticks mid).interruptCheck
  · rw [hf]
    exact endsInInv_next.2 h

theorem State.Inv.instrStep {s : State} (h : s.Inv) (mid : List Completion) : EndsInInv (s.instrStep mid) := by
  intro u hu
  obtain ⟨t, hexec, hfinish⟩ := finishResult_next hu
  exact (h.begun.exec s.fetched t hexec).finish mid u hfinish

/-! ## The console -/

theorem State.Inv.beginRun {s : State} (h : s.Inv) : s.beginRun.Inv := h.of_invPart h.memory rfl

theorem State.Inv.conReset {s : State} (h : s.Inv) : s.conReset.Inv := h.resetIo.of_invPart h.memory rfl

theorem State.Inv.conAttach {s : State} (h : s.Inv) (d : DevCode) : (s.conAttach d).Inv := by
  have hattach : (s.mapUnit d DevUnit.attach).Inv := h.mapUnit d DevUnit.kind_attach
  unfold State.conAttach
  split
  · exact h.answer _
  · split
    · exact hattach.answer _
    · exact hattach.answer _
    · exact h.answer _

theorem State.Inv.conWaitForHalt {s : State} (h : s.Inv) : s.conWaitForHalt.Inv := by
  unfold State.conWaitForHalt
  split <;> exact h.of_invPart h.memory rfl

theorem State.Inv.conProgramLoad {s : State} (h : s.Inv) : EndsInInv s.conProgramLoad := by
  unfold State.conProgramLoad
  split
  · simp [EndsInInv]
  · exact endsInInv_next.2 (h.of_invPart (Memory.wf_writeWords h.memory 0 _) rfl)

theorem State.Inv.conInstStep {s : State} (h : s.Inv) (mid : List Completion) : EndsInInv (s.conInstStep mid) := by
  have hstep : EndsInInv (s.beginRun.instrStep mid) := h.beginRun.instrStep mid
  unfold State.conInstStep
  cases hr : s.beginRun.instrStep mid with
  | next t => exact endsInInv_next.2 ((hstep t hr).of_invPart (hstep t hr).memory rfl)
  | fault _ | refused _ => simp [EndsInInv]

theorem State.Inv.whenStopped {s : State} (h : s.Inv) {r : Result} (hr : EndsInInv r) :
    EndsInInv (s.whenStopped r) := by
  rcases s.whenStopped_cases r with ⟨-, hw⟩ | ⟨-, hw⟩
  · rwa [hw]
  · rw [hw]
    exact endsInInv_next.2 (h.answer _)

/-- Every console request keeps the invariant. -/
theorem State.Inv.console {s : State} (h : s.Inv) (op : ConsoleOp) : EndsInInv (s.console op) := by
  cases op with
  | start _ | resume | examine _ | examineNext => exact h.whenStopped (endsInInv_next.2 (h.of_invPart h.memory rfl))
  | stop | switches _ | status => exact endsInInv_next.2 (h.of_invPart h.memory rfl)
  | reset => exact endsInInv_next.2 h.conReset
  | instStep mid => exact h.whenStopped (h.conInstStep mid)
  | deposit a d =>
    exact h.whenStopped (endsInInv_next.2 (h.of_invPart (Memory.wf_writeWord h.memory (maskAddr a) d) rfl))
  | depositNext d =>
    exact h.whenStopped (endsInInv_next.2 (h.of_invPart (Memory.wf_writeWord h.memory (s.pc + 1) d) rfl))
  | loadMemory a words =>
    exact h.whenStopped (endsInInv_next.2 (h.of_invPart (Memory.wf_writeWords h.memory (maskAddr a) words) rfl))
  | programLoad => exact h.whenStopped h.conProgramLoad
  | attach d => exact h.whenStopped (endsInInv_next.2 (h.conAttach d))
  | waitForHalt => exact endsInInv_next.2 h.conWaitForHalt

/-! ## The step, and reset -/

/-- Settles O14, from the four turns a step can be. -/
theorem stepKeepsInv : Obligations.StepKeepsInv := by
  intro s t h ht
  obtain ⟨l, hturn⟩ := step_cases s
  have hl : ({ s with agenda := l } : State).Inv := h.of_invPart h.memory rfl
  rcases hturn with ⟨mid, -, hs⟩ | ⟨-, hs⟩ | ⟨c, hs⟩ | ⟨op, hs⟩
  · exact hl.instrStep mid t (hs ▸ ht)
  · exact endsInInv_next.2 hl t (hs ▸ ht)
  · exact endsInInv_next.2 (hl.tick c) t (hs ▸ ht)
  · exact hl.console op t (hs ▸ ht)

/-- Settles O13: the state at reset is the one that IORST leaves, all controllers Idle and no request, over an empty
memory and the admissible device list of the model. -/
theorem resetSatisfiesInv : Obligations.ResetSatisfiesInv where
  memory := State.reset_mem_wf
  table := by decide
  requests := requestsMatch_resetIo State.reset
  enable := fun _ => rfl
  mask := ⟨0, (maskSet_zero _ _).symm⟩

/-- Settles O7: with no turn named the step is the core's turn, which does nothing while stopped. -/
theorem stoppedCoreExecutesNothing : Obligations.StoppedCoreExecutesNothing := by
  intro s hrun hagenda
  have hstep : step s = s.coreTurn [] := by
    unfold step
    rw [hagenda]
  rw [hstep, State.coreTurn_stopped hrun]

end Sys2Proof.Machine
end

section
/-! Carry reaches only the ALC class and DIV: every other operation commutes with replacing the carry. -/

namespace Sys2Proof.Machine

/-- The state with its carry replaced. -/
def State.withCarry (s : State) (b : Bool) : State := { s with carry := b }

/-- `r'` is what `r` is, with the carry `b` in its next state. -/
def SameButCarry (b : Bool) (r r' : Result) : Prop := r' = onNext (fun t => t.withCarry b) r

theorem sameButCarry_next {b : Bool} {t t' : State} (h : t' = t.withCarry b) : SameButCarry b (.next t) (.next t') := by
  rw [h]
  rfl

theorem sameButCarry_indirectLoop (s : State) (b : Bool) :
    SameButCarry b s.indirectLoop (s.withCarry b).indirectLoop := by
  have hcfg : (s.withCarry b).cfg = s.cfg := rfl
  unfold State.indirectLoop
  rw [hcfg]
  cases s.cfg.hopCap <;> rfl

/-- An address resolution reads no carry, so a memory reference commutes with the carry if its operation does. -/
theorem sameButCarry_atAddress {k : Addr → State → State} {b : Bool}
    (hk : ∀ e t, k e (t.withCarry b) = (k e t).withCarry b) (s : State) (m : EaFields) :
    SameButCarry b (s.atAddress m k) ((s.withCarry b).atAddress m k) := by
  have hresolve : (s.withCarry b).resolve m = s.resolve m := rfl
  unfold State.atAddress State.afterChain
  rw [hresolve]
  cases s.resolve m with
  | ends e m' => exact sameButCarry_next (hk e { s with mem := m' })
  | loops m' => exact sameButCarry_indirectLoop { s with mem := m' } b

theorem State.cpuControl_withCarry (s : State) (b : Bool) (f : Ctl) :
    (s.withCarry b).cpuControl f = (s.cpuControl f).withCarry b := by
  rw [State.cpuControl_eq, State.cpuControl_eq]
  rfl

theorem State.control_withCarry (s : State) (b : Bool) (f : Ctl) (d : DevCode) :
    (s.withCarry b).control f d = (s.control f d).withCarry b := by
  cases f <;> rfl

theorem State.ioInput_withCarry (s : State) (b : Bool) (data : Controller → Option Word) (ac : Ac) (f : Ctl)
    (d : DevCode) : (s.withCarry b).ioInput data ac f d = (s.ioInput data ac f d).withCarry b := by
  have hdev : (s.withCarry b).dev d = s.dev d := rfl
  unfold State.ioInput
  rw [hdev]
  cases s.dev d with
  | none => rfl
  | some c =>
    have htake : (s.withCarry b).takeReply ac (data c) = (s.takeReply ac (data c)).withCarry b := by
      cases data c <;> rfl
    simp only [htake, State.control_withCarry]

theorem State.ioOutputA_withCarry (s : State) (b : Bool) (ac : Ac) (f : Ctl) (d : DevCode) :
    (s.withCarry b).ioOutputA ac f d = (s.ioOutputA ac f d).withCarry b := by
  have hdev : (s.withCarry b).dev d = s.dev d := rfl
  unfold State.ioOutputA
  rw [hdev]
  cases s.dev d with
  | none => rfl
  | some c => exact State.control_withCarry (s.mapUnit d fun u => outputA u (s.ac ac)) b f d

theorem State.ioOutputNone_withCarry (s : State) (b : Bool) (f : Ctl) (d : DevCode) :
    (s.withCarry b).ioOutputNone f d = (s.ioOutputNone f d).withCarry b := by
  have hdev : (s.withCarry b).dev d = s.dev d := rfl
  unfold State.ioOutputNone
  rw [hdev]
  cases s.dev d with
  | none => rfl
  | some c => exact State.control_withCarry s b f d

theorem sameButCarry_msko (ac : Ac) (f : Ctl) (s : State) (b : Bool) :
    SameButCarry b (execMsko ac f s) (execMsko ac f (s.withCarry b)) := by
  have hdev : (s.withCarry b).devices = s.devices := rfl
  unfold execMsko
  rw [hdev]
  split
  · exact sameButCarry_next (State.cpuControl_withCarry { s with dis := maskSet s.cfg (s.ac ac) s.devices } b f)
  · rfl

/-- Settles O18, from the shared operations, which commute with replacing the carry. -/
theorem carryReachesOnlyAlcAndDiv : Obligations.CarryReachesOnlyAlcAndDiv := by
  intro i s b halc hdiv
  change SameButCarry b (exec i s) (exec i (s.withCarry b))
  cases i with
  | com _ | neg _ | mov _ | inc _ | adc _ | sub _ | add _ | and _ => cases halc
  | jmp m | jsr m | isz m | dsz m | lda _ m | sta _ m =>
    simp only [exec]
    exact sameButCarry_atAddress (fun _ _ => rfl) s m
  | mul | docMdv _ _ | skpMdv _ _ | otherMdv _ _ _ => rfl
  | div => exact absurd rfl hdiv
  | nioCpu _ f | doaCpu _ f => exact sameButCarry_next (s.cpuControl_withCarry b f)
  | reads ac f => exact sameButCarry_next ((s.setAc ac s.sr).cpuControl_withCarry b f)
  | inta ac f => exact sameButCarry_next ((s.setAc ac (lowestCode s.honoured)).cpuControl_withCarry b f)
  | msko ac f => exact sameButCarry_msko ac f s b
  | iorst _ f => exact sameButCarry_next (s.resetIo.cpuControl_withCarry b f)
  | halt _ f => exact sameButCarry_next (congrArg State.haltRun (s.cpuControl_withCarry b f))
  | skpbnCpu _ | skpbzCpu _ | skpdnCpu _ | skpdzCpu _ | skp _ _ _ => rfl
  | nio ac f d | dib ac f d | dic ac f d => exact sameButCarry_next (s.ioInput_withCarry b inputNone ac f d)
  | dia ac f d => exact sameButCarry_next (s.ioInput_withCarry b inputA ac f d)
  | doa ac f d => exact sameButCarry_next (s.ioOutputA_withCarry b ac f d)
  | dob _ f d | doc _ f d => exact sameButCarry_next (s.ioOutputNone_withCarry b f d)

end Sys2Proof.Machine
end

section
/-! Memory is written by the memory-reference class alone (R55): every other effect of an instruction leaves it. -/

namespace Sys2Proof.Machine

/-- An effect of an instruction outside the memory-reference class leaves memory: registers, controllers and the
interrupt system are all it can reach. -/
theorem ExecEffect.mem_eq {i : Instr} {s t : State} (hi : isMemRef i = false) (he : ExecEffect i s t) :
    t.mem = s.mem := by
  cases he with
  | registers => rfl
  | memRef _ _ _ hm | indirectLoop _ hm => simp [hi] at hm
  | deviceIo =>
    rw [State.control_frame]
    rfl
  | cpu | msko | iorst | halt => simp [State.cpuControl_eq]

/-- Settles O17, from the memory of each effect. -/
theorem onlyMemoryReferencesWriteMemory : Obligations.OnlyMemoryReferencesWriteMemory :=
  fun i s t hi h => (exec_effect i s t h).mem_eq hi

end Sys2Proof.Machine
end

section
/-! Words and their fields: the value of a field and its bits determine each other (R76), a word of each format gives back
the fields it was made of, and every word is of one of the formats (R71 to R75). -/

namespace Sys2Proof

/-! ## The values of the fields -/

@[simp] theorem Ac.ofBits_toBits (x : Ac) : Ac.ofBits x.toBits = x := by cases x <;> rfl

@[simp] theorem Shift.ofBits_toBits (x : Shift) : Shift.ofBits x.toBits = x := by cases x <;> rfl

@[simp] theorem CarrySel.ofBits_toBits (x : CarrySel) : CarrySel.ofBits x.toBits = x := by cases x <;> rfl

@[simp] theorem Skip.ofBits_toBits (x : Skip) : Skip.ofBits x.toBits = x := by cases x <;> rfl

@[simp] theorem Mode.ofBits_toBits (x : Mode) : Mode.ofBits x.toBits = x := by cases x <;> rfl

@[simp] theorem Ctl.ofBits_toBits (x : Ctl) : Ctl.ofBits x.toBits = x := by cases x <;> rfl

@[simp] theorem IoTest.ofBits_toBits (x : IoTest) : IoTest.ofBits x.toBits = x := by cases x <;> rfl

@[simp] theorem Ac.toBits_ofBits : ∀ b, (Ac.ofBits b).toBits = b := by decide

@[simp] theorem Shift.toBits_ofBits : ∀ b, (Shift.ofBits b).toBits = b := by decide

@[simp] theorem CarrySel.toBits_ofBits : ∀ b, (CarrySel.ofBits b).toBits = b := by decide

@[simp] theorem Skip.toBits_ofBits : ∀ b, (Skip.ofBits b).toBits = b := by decide

@[simp] theorem Mode.toBits_ofBits : ∀ b, (Mode.ofBits b).toBits = b := by decide

@[simp] theorem Ctl.toBits_ofBits : ∀ b, (Ctl.ofBits b).toBits = b := by decide

@[simp] theorem IoTest.toBits_ofBits : ∀ b, (IoTest.ofBits b).toBits = b := by decide

/-! ## The fields of a word of each format -/

section
variable (op : BitVec 3) (a : AlcFields)

theorem alcWord_getLsbD_class : (alcWord op a).getLsbD 15 = true := by
  simp only [alcWord, BitVec.getLsbD_append]
  simp

@[simp] theorem alcWord_extract_op : (alcWord op a).extractLsb' 8 3 = op := by
  ext i hi
  simp only [alcWord, BitVec.getElem_extractLsb', BitVec.getLsbD_append]
  grind

theorem alcWord_extract_options :
    (alcWord op a).extractLsb' 13 2 = a.acs.toBits ∧ (alcWord op a).extractLsb' 11 2 = a.acd.toBits ∧
    (alcWord op a).extractLsb' 6 2 = a.sh.toBits ∧ (alcWord op a).extractLsb' 4 2 = a.cy.toBits ∧
    (alcWord op a).getLsbD 3 = a.nl ∧ (alcWord op a).extractLsb' 0 3 = a.sk.toBits := by
  refine ⟨?_, ?_, ?_, ?_, ?_, ?_⟩
  case refine_5 =>
    simp only [alcWord, BitVec.getLsbD_append]
    simp
  all_goals
    ext i hi
    simp only [alcWord, BitVec.getElem_extractLsb', BitVec.getLsbD_append]
    grind

@[simp] theorem alcFieldsOf_alcWord : alcFieldsOf (alcWord op a) = a := by
  obtain ⟨hacs, hacd, hsh, hcy, hnl, hsk⟩ := alcWord_extract_options op a
  simp only [alcFieldsOf, hacs, hacd, hsh, hcy, hnl, hsk, Ac.ofBits_toBits, Shift.ofBits_toBits,
    CarrySel.ofBits_toBits, Skip.ofBits_toBits]

end

section
variable (grp : BitVec 3) (fn : BitVec 2) (m : EaFields)

theorem memRefWord_getLsbD_class : (memRefWord grp fn m).getLsbD 15 = grp.getLsbD 2 := by
  simp only [memRefWord, BitVec.getLsbD_append]
  simp

@[simp] theorem memRefWord_extract_grp : (memRefWord grp fn m).extractLsb' 13 2 = grp.extractLsb' 0 2 := by
  ext i hi
  simp only [memRefWord, BitVec.getElem_extractLsb', BitVec.getLsbD_append]
  grind

@[simp] theorem memRefWord_extract_fn : (memRefWord grp fn m).extractLsb' 11 2 = fn := by
  ext i hi
  simp only [memRefWord, BitVec.getElem_extractLsb', BitVec.getLsbD_append]
  grind

theorem memRefWord_extract_address :
    (memRefWord grp fn m).getLsbD 10 = m.ind ∧ (memRefWord grp fn m).extractLsb' 8 2 = m.mode.toBits ∧
    (memRefWord grp fn m).extractLsb' 0 8 = m.disp := by
  refine ⟨?_, ?_, ?_⟩
  case refine_1 =>
    simp only [memRefWord, BitVec.getLsbD_append]
    simp
  all_goals
    ext i hi
    simp only [memRefWord, BitVec.getElem_extractLsb', BitVec.getLsbD_append]
    grind

@[simp] theorem eaFieldsOf_memRefWord : eaFieldsOf (memRefWord grp fn m) = m := by
  obtain ⟨hind, hmode, hdisp⟩ := memRefWord_extract_address grp fn m
  simp only [eaFieldsOf, hind, hmode, hdisp, Mode.ofBits_toBits]

@[simp] theorem acOf_memRefWord (ac : Ac) : acOf (memRefWord grp ac.toBits m) = ac := by simp [acOf]

end

section
variable (ac : Ac) (op : BitVec 3) (f : BitVec 2) (d : DevCode)

theorem ioWord_getLsbD_class : (ioWord ac op f d).getLsbD 15 = false := by
  simp only [ioWord, BitVec.getLsbD_append]
  simp

@[simp] theorem ioWord_extract_grp : (ioWord ac op f d).extractLsb' 13 2 = 3#2 := by
  ext i hi
  simp only [ioWord, BitVec.getElem_extractLsb', BitVec.getLsbD_append]
  interval_cases i <;> simp

@[simp] theorem ioWord_extract_op : (ioWord ac op f d).extractLsb' 8 3 = op := by
  ext i hi
  simp only [ioWord, BitVec.getElem_extractLsb', BitVec.getLsbD_append]
  grind

@[simp] theorem ioWord_extract_ac : (ioWord ac op f d).extractLsb' 11 2 = ac.toBits := by
  ext i hi
  simp only [ioWord, BitVec.getElem_extractLsb', BitVec.getLsbD_append]
  grind

@[simp] theorem ioWord_extract_f : (ioWord ac op f d).extractLsb' 6 2 = f := by
  ext i hi
  simp only [ioWord, BitVec.getElem_extractLsb', BitVec.getLsbD_append]
  grind

@[simp] theorem ioWord_extract_dev : (ioWord ac op f d).extractLsb' 0 6 = d := by
  ext i hi
  simp only [ioWord, BitVec.getElem_extractLsb', BitVec.getLsbD_append]
  grind

@[simp] theorem acOf_ioWord : acOf (ioWord ac op f d) = ac := by simp [acOf]

@[simp] theorem ctlOf_ioWord : ctlOf (ioWord ac op f d) = Ctl.ofBits f := by simp [ctlOf]

@[simp] theorem testOf_ioWord : testOf (ioWord ac op f d) = IoTest.ofBits f := by simp [testOf]

@[simp] theorem devOf_ioWord : devOf (ioWord ac op f d) = d := by simp [devOf]

end

/-! ## Every word is of one of the formats -/

theorem alcWord_fields {w : Word} (h : w.getLsbD 15 = true) : alcWord (w.extractLsb' 8 3) (alcFieldsOf w) = w := by
  apply BitVec.eq_of_getLsbD_eq
  intro i hi
  simp only [alcWord, alcFieldsOf, Ac.toBits_ofBits, Shift.toBits_ofBits, CarrySel.toBits_ofBits, Skip.toBits_ofBits,
    BitVec.getLsbD_append, BitVec.getLsbD_extractLsb', BitVec.getLsbD_ofBool]
  interval_cases i <;> simp [h]

theorem memRefWord_fields (w : Word) :
    memRefWord (w.extractLsb' 13 3) (w.extractLsb' 11 2) (eaFieldsOf w) = w := by
  apply BitVec.eq_of_getLsbD_eq
  intro i hi
  simp only [memRefWord, eaFieldsOf, Mode.toBits_ofBits, BitVec.getLsbD_append, BitVec.getLsbD_extractLsb',
    BitVec.getLsbD_ofBool]
  interval_cases i <;> simp

theorem ioWord_fields {w : Word} (h : w.extractLsb' 13 3 = 3#3) :
    ioWord (acOf w) (w.extractLsb' 8 3) (w.extractLsb' 6 2) (devOf w) = w := by
  apply BitVec.eq_of_getLsbD_eq
  intro i hi
  simp only [ioWord, ← h, acOf, devOf, Ac.toBits_ofBits, BitVec.getLsbD_append, BitVec.getLsbD_extractLsb']
  grind

theorem grp_cases : ∀ g : BitVec 3, g.getLsbD 2 = false → g = 0 ∨ g = 1 ∨ g = 2 ∨ g = 3 := by decide

/-- The class decode of R71: a word is an ALC word, an MRF word, an MRA word or an I/O word. -/
theorem word_format (w : Word) :
    (∃ op a, w = alcWord op a) ∨ (∃ fn m, w = memRefWord 0 fn m) ∨
    (∃ ac m, w = memRefWord 1 (Ac.toBits ac) m) ∨ (∃ ac m, w = memRefWord 2 (Ac.toBits ac) m) ∨
    (∃ ac op f d, w = ioWord ac op f d) := by
  cases hclass : w.getLsbD 15 with
  | true => exact .inl ⟨_, _, (alcWord_fields hclass).symm⟩
  | false =>
    have hmem := (memRefWord_fields w).symm
    rw [← Ac.toBits_ofBits (w.extractLsb' 11 2)] at hmem
    rcases grp_cases (w.extractLsb' 13 3) (by simpa using hclass) with h | h | h | h
    · exact .inr (.inl ⟨_, _, h ▸ hmem⟩)
    · exact .inr (.inr (.inl ⟨_, _, h ▸ hmem⟩))
    · exact .inr (.inr (.inr (.inl ⟨_, _, h ▸ hmem⟩)))
    · exact .inr (.inr (.inr (.inr ⟨_, _, _, _, (ioWord_fields h).symm⟩)))

end Sys2Proof
end

section
/-! Decoding and encoding are inverse: the decoder on the word of each class (R71, R170), decoding after encoding (R79), and
a well-formed instruction for every word (R85). -/

namespace Sys2Proof

/-! ## Class decode (R71, R170) -/

theorem decode_alcWord (mdv : Bool) (op : BitVec 3) (a : AlcFields) :
    decode mdv (alcWord op a) = decodeAlc (alcWord op a) := by
  rw [decode, if_pos (alcWord_getLsbD_class op a)]

/-- GRP 0, 1 and 2 with class 0 are the memory references. -/
theorem decode_memRefWord (mdv : Bool) {grp : BitVec 3} (hgrp : grp = 0 ∨ grp = 1 ∨ grp = 2) (fn : BitVec 2)
    (m : EaFields) : decode mdv (memRefWord grp fn m) = decodeMemRef (memRefWord grp fn m) := by
  rcases hgrp with rfl | rfl | rfl <;>
    simp only [decode, memRefWord_getLsbD_class, memRefWord_extract_grp] <;> rfl

theorem decode_ioWord (mdv : Bool) (ac : Ac) (op : BitVec 3) (f : BitVec 2) (d : DevCode) :
    decode mdv (ioWord ac op f d) = decodeIo mdv (ioWord ac op f d) := by
  rw [decode, ioWord_getLsbD_class, if_neg Bool.false_ne_true, if_pos (ioWord_extract_grp ac op f d)]

theorem decode_ioWord_cpu (mdv : Bool) (ac : Ac) (op : BitVec 3) (f : BitVec 2) :
    decode mdv (ioWord ac op f 0o77) = decodeCpu (ioWord ac op f 0o77) := by simp [decode_ioWord, decodeIo]

theorem decode_ioWord_mdv (ac : Ac) (op : BitVec 3) (f : BitVec 2) :
    decode true (ioWord ac op f 0o01) = decodeMdv (ioWord ac op f 0o01) := by simp [decode_ioWord, decodeIo]

theorem genericDev_iff {mdv : Bool} {d : DevCode} :
    genericDev mdv d = true ↔ d ≠ 0o77#6 ∧ ¬(mdv = true ∧ d = 0o01#6) := by
  cases mdv <;> simp [genericDev]

theorem decode_ioWord_generic {mdv : Bool} {d : DevCode} (hd : genericDev mdv d = true) (ac : Ac) (op : BitVec 3)
    (f : BitVec 2) : decode mdv (ioWord ac op f d) = decodeGeneric (ioWord ac op f d) := by
  obtain ⟨hcpu, hmdv⟩ := genericDev_iff.mp hd
  simp only [decode_ioWord, decodeIo, devOf_ioWord, if_neg hcpu, if_neg hmdv]

/-! ## Decoding after encoding -/

/-- The words that R236 takes from the multiply/divide unit decode to the row `other MDV`: OP 0 to 5 by OP, DOC by F. -/
theorem decode_otherMdv (ac : Ac) {op : IoOp} {f : Ctl} (h : otherMdvForm op f = true) :
    decode true (encode (.otherMdv ac op f)) = .otherMdv ac op f := by
  rw [encode, decode_ioWord_mdv]
  cases op with
  | doc => cases f <;> simp_all [decodeMdv, decodeDocMdv, otherMdvForm, IoOp.toBits]
  | _ => simp [decodeMdv, IoOp.toBits]

/-- DOCS and DOCP to the unit are DIV and MUL only with accumulator 2 (R234). -/
theorem decode_docMdv {ac : Ac} (h : ac ≠ .ac2) (pulse : Bool) :
    decode true (encode (.docMdv ac pulse)) = .docMdv ac pulse := by
  rw [encode, decode_ioWord_mdv]
  cases pulse <;> simp [decodeMdv, decodeDocMdv, Ctl.ofBits, h]

/-- Settles O1: each constructor by the rule of its class, where its own OP, FN, F and DEV choose its row. -/
theorem decodeEncodeRoundTrip : Obligations.DecodeEncodeRoundTrip := by
  intro mdv i hwf
  cases i with
  | com a | neg a | mov a | inc a | adc a | sub a | add a | and a =>
    rw [encode, decode_alcWord]
    simp [decodeAlc]
  | jmp m | jsr m | isz m | dsz m | lda ac m | sta ac m =>
    rw [encode, decode_memRefWord mdv (by decide)]
    simp [decodeMemRef]
  | nioCpu ac f | reads ac f | doaCpu ac f | inta ac f | msko ac f | iorst ac f | halt ac f =>
    rw [encode, decode_ioWord_cpu]
    simp [decodeCpu]
  | skpbnCpu ac | skpbzCpu ac | skpdnCpu ac | skpdzCpu ac =>
    rw [encode, decode_ioWord_cpu]
    simp [decodeCpu, IoTest.ofBits]
  | nio ac f d | dia ac f d | doa ac f d | dib ac f d | dob ac f d | dic ac f d | doc ac f d | skp ac f d =>
    rw [encode, decode_ioWord_generic hwf]
    simp [decodeGeneric]
  | mul | div =>
    obtain rfl : mdv = true := hwf
    rfl
  | skpMdv ac t =>
    obtain rfl : mdv = true := hwf
    rw [encode, decode_ioWord_mdv]
    simp [decodeMdv]
  | docMdv ac pulse =>
    obtain ⟨rfl, hac⟩ : mdv = true ∧ ac ≠ .ac2 := by simpa [Instr.wf] using hwf
    exact decode_docMdv hac pulse
  | otherMdv ac op f =>
    obtain ⟨rfl, hform⟩ : mdv = true ∧ otherMdvForm op f = true := by simpa [Instr.wf] using hwf
    exact decode_otherMdv ac hform

/-! ## Every word is the word of a well-formed instruction (R85) -/

/-- `w` is the word of a well-formed instruction. -/
def IsInstrWord (mdv : Bool) (w : Word) : Prop := ∃ i : Instr, i.wf mdv = true ∧ encode i = w

theorem op_cases : ∀ op : BitVec 3, op = 0 ∨ op = 1 ∨ op = 2 ∨ op = 3 ∨ op = 4 ∨ op = 5 ∨ op = 6 ∨ op = 7 := by decide

theorem fn_cases : ∀ fn : BitVec 2, fn = 0 ∨ fn = 1 ∨ fn = 2 ∨ fn = 3 := by decide

theorem isInstrWord_alcWord (mdv : Bool) (op : BitVec 3) (a : AlcFields) : IsInstrWord mdv (alcWord op a) := by
  rcases op_cases op with rfl | rfl | rfl | rfl | rfl | rfl | rfl | rfl
  · exact ⟨.com a, rfl, rfl⟩
  · exact ⟨.neg a, rfl, rfl⟩
  · exact ⟨.mov a, rfl, rfl⟩
  · exact ⟨.inc a, rfl, rfl⟩
  · exact ⟨.adc a, rfl, rfl⟩
  · exact ⟨.sub a, rfl, rfl⟩
  · exact ⟨.add a, rfl, rfl⟩
  · exact ⟨.and a, rfl, rfl⟩

theorem isInstrWord_memRefWord_zero (mdv : Bool) (fn : BitVec 2) (m : EaFields) :
    IsInstrWord mdv (memRefWord 0 fn m) := by
  rcases fn_cases fn with rfl | rfl | rfl | rfl
  · exact ⟨.jmp m, rfl, rfl⟩
  · exact ⟨.jsr m, rfl, rfl⟩
  · exact ⟨.isz m, rfl, rfl⟩
  · exact ⟨.dsz m, rfl, rfl⟩

theorem isInstrWord_ioWord_cpu (mdv : Bool) (ac : Ac) (op : BitVec 3) (f : Ctl) :
    IsInstrWord mdv (ioWord ac op f.toBits 0o77) := by
  rcases op_cases op with rfl | rfl | rfl | rfl | rfl | rfl | rfl | rfl
  · exact ⟨.nioCpu ac f, rfl, rfl⟩
  · exact ⟨.reads ac f, rfl, rfl⟩
  · exact ⟨.doaCpu ac f, rfl, rfl⟩
  · exact ⟨.inta ac f, rfl, rfl⟩
  · exact ⟨.msko ac f, rfl, rfl⟩
  · exact ⟨.iorst ac f, rfl, rfl⟩
  · exact ⟨.halt ac f, rfl, rfl⟩
  · cases f with
    | none => exact ⟨.skpbnCpu ac, rfl, rfl⟩
    | start => exact ⟨.skpbzCpu ac, rfl, rfl⟩
    | clear => exact ⟨.skpdnCpu ac, rfl, rfl⟩
    | pulse => exact ⟨.skpdzCpu ac, rfl, rfl⟩

/-- DOC to the unit: DIV and MUL, the six words of R234, and the row `other MDV` with the other two control fields. -/
theorem isInstrWord_ioWord_docMdv (ac : Ac) (f : Ctl) : IsInstrWord true (ioWord ac 6 f.toBits 0o01) := by
  by_cases hac : ac = .ac2
  · subst hac
    cases f with
    | start => exact ⟨.div, rfl, rfl⟩
    | pulse => exact ⟨.mul, rfl, rfl⟩
    | none => exact ⟨.otherMdv .ac2 .doc .none, rfl, rfl⟩
    | clear => exact ⟨.otherMdv .ac2 .doc .clear, rfl, rfl⟩
  · cases f with
    | start => exact ⟨.docMdv ac false, by simpa [Instr.wf] using hac, rfl⟩
    | pulse => exact ⟨.docMdv ac true, by simpa [Instr.wf] using hac, rfl⟩
    | none => exact ⟨.otherMdv ac .doc .none, rfl, rfl⟩
    | clear => exact ⟨.otherMdv ac .doc .clear, rfl, rfl⟩

theorem isInstrWord_ioWord_mdv (ac : Ac) (op : BitVec 3) (f : BitVec 2) : IsInstrWord true (ioWord ac op f 0o01) := by
  rw [← Ctl.toBits_ofBits f]
  rcases op_cases op with rfl | rfl | rfl | rfl | rfl | rfl | rfl | rfl
  · exact ⟨.otherMdv ac .nio (Ctl.ofBits f), rfl, rfl⟩
  · exact ⟨.otherMdv ac .dia (Ctl.ofBits f), rfl, rfl⟩
  · exact ⟨.otherMdv ac .doa (Ctl.ofBits f), rfl, rfl⟩
  · exact ⟨.otherMdv ac .dib (Ctl.ofBits f), rfl, rfl⟩
  · exact ⟨.otherMdv ac .dob (Ctl.ofBits f), rfl, rfl⟩
  · exact ⟨.otherMdv ac .dic (Ctl.ofBits f), rfl, rfl⟩
  · exact isInstrWord_ioWord_docMdv ac (Ctl.ofBits f)
  · exact ⟨.skpMdv ac (IoTest.ofBits f), rfl, by simp [encode]⟩

theorem isInstrWord_ioWord_generic {mdv : Bool} {d : DevCode} (hd : genericDev mdv d = true) (ac : Ac) (op : BitVec 3)
    (f : BitVec 2) : IsInstrWord mdv (ioWord ac op f d) := by
  rw [← Ctl.toBits_ofBits f]
  rcases op_cases op with rfl | rfl | rfl | rfl | rfl | rfl | rfl | rfl
  · exact ⟨.nio ac (Ctl.ofBits f) d, hd, rfl⟩
  · exact ⟨.dia ac (Ctl.ofBits f) d, hd, rfl⟩
  · exact ⟨.doa ac (Ctl.ofBits f) d, hd, rfl⟩
  · exact ⟨.dib ac (Ctl.ofBits f) d, hd, rfl⟩
  · exact ⟨.dob ac (Ctl.ofBits f) d, hd, rfl⟩
  · exact ⟨.dic ac (Ctl.ofBits f) d, hd, rfl⟩
  · exact ⟨.doc ac (Ctl.ofBits f) d, hd, rfl⟩
  · exact ⟨.skp ac (IoTest.ofBits f) d, hd, by simp [encode]⟩

/-- The device code of an I/O word names the CPU, the multiply/divide unit, or a generic row's device (R79, R170). -/
theorem isInstrWord_ioWord (mdv : Bool) (ac : Ac) (op : BitVec 3) (f : BitVec 2) (d : DevCode) :
    IsInstrWord mdv (ioWord ac op f d) := by
  by_cases hcpu : d = 0o77#6
  · rw [hcpu, ← Ctl.toBits_ofBits f]
    exact isInstrWord_ioWord_cpu mdv ac op _
  by_cases hmdv : mdv = true ∧ d = 0o01#6
  · rw [hmdv.1, hmdv.2]
    exact isInstrWord_ioWord_mdv ac op f
  exact isInstrWord_ioWord_generic (genericDev_iff.mpr ⟨hcpu, hmdv⟩) ac op f

/-- Encoding reaches every word. -/
theorem isInstrWord (mdv : Bool) (w : Word) : IsInstrWord mdv w := by
  rcases word_format w with ⟨op, a, rfl⟩ | ⟨fn, m, rfl⟩ | ⟨ac, m, rfl⟩ | ⟨ac, m, rfl⟩ | ⟨ac, op, f, d, rfl⟩
  · exact isInstrWord_alcWord mdv op a
  · exact isInstrWord_memRefWord_zero mdv fn m
  · exact ⟨.lda ac m, rfl, rfl⟩
  · exact ⟨.sta ac m, rfl, rfl⟩
  · exact isInstrWord_ioWord mdv ac op f d

/-- Settles O3: the decoder gives back the instruction whose word it is. -/
theorem everyWordIsOneInstruction : Obligations.EveryWordIsOneInstruction := by
  intro mdv w
  obtain ⟨i, hwf, rfl⟩ := isInstrWord mdv w
  rw [decodeEncodeRoundTrip mdv i hwf]
  exact ⟨hwf, rfl⟩

end Sys2Proof
end

section
/-! The words in exact arithmetic (R90): a word is the sum of its fields, and the words that the source states literally are
the sums of theirs. -/

namespace Sys2Proof.Machine

/-! ## The values of the fields -/

@[simp] theorem toNat_toBits_ac (x : Ac) : x.toBits.toNat = acNat x := by cases x <;> rfl

@[simp] theorem toNat_toBits_shift (x : Shift) : x.toBits.toNat = shiftNat x := by cases x <;> rfl

@[simp] theorem toNat_toBits_carrySel (x : CarrySel) : x.toBits.toNat = carryNat x := by cases x <;> rfl

@[simp] theorem toNat_toBits_skip (x : Skip) : x.toBits.toNat = skipNat x := by cases x <;> rfl

@[simp] theorem toNat_toBits_mode (x : Mode) : x.toBits.toNat = modeNat x := by cases x <;> rfl

@[simp] theorem toNat_toBits_ctl (x : Ctl) : x.toBits.toNat = ctlNat x := by cases x <;> rfl

@[simp] theorem toNat_toBits_ioTest (x : IoTest) : x.toBits.toNat = testNat x := by cases x <;> rfl

@[simp] theorem toNat_toBits_ioOp (x : IoOp) : x.toBits.toNat = ioOpNat x := by cases x <;> rfl

/-! ## The formats -/

/-- Two fields side by side: the upper one counts in units of the lower one's range. -/
theorem toNat_append_eq_add {n m : Nat} (x : BitVec n) (y : BitVec m) :
    (x ++ y).toNat = x.toNat * 2 ^ m + y.toNat := by
  rw [BitVec.toNat_append, ← Nat.shiftLeft_add_eq_or_of_lt y.isLt, Nat.shiftLeft_eq]

theorem toNat_alcWord (op : BitVec 3) (a : AlcFields) : (alcWord op a).toNat = alcNat op.toNat a := by
  simp only [alcWord, toNat_append_eq_add, toNat_toBits_ac, toNat_toBits_shift, toNat_toBits_carrySel,
    toNat_toBits_skip, BitVec.toNat_ofBool]
  simp only [alcNat, BitVec.toNat_ofNat]
  omega

theorem toNat_memRefWord (grp : BitVec 3) (fn : BitVec 2) (m : EaFields) :
    (memRefWord grp fn m).toNat = memRefNat grp.toNat fn.toNat m := by
  simp only [memRefWord, toNat_append_eq_add, toNat_toBits_mode, BitVec.toNat_ofBool]
  simp only [memRefNat]
  omega

theorem toNat_ioWord (ac : Ac) (op : BitVec 3) (f : BitVec 2) (d : DevCode) :
    (ioWord ac op f d).toNat = ioNat ac op.toNat f.toNat d.toNat := by
  simp only [ioWord, toNat_append_eq_add, toNat_toBits_ac]
  simp only [ioNat, BitVec.toNat_ofNat]
  omega

/-- Settles O2, from the sum of each format. -/
theorem wordIsTheSumOfItsFields : Obligations.WordIsTheSumOfItsFields := by
  intro i
  cases i with
  | com a | neg a | mov a | inc a | adc a | sub a | add a | and a => exact toNat_alcWord _ a
  | jmp m | jsr m | isz m | dsz m => exact toNat_memRefWord 0 _ m
  | lda ac m | sta ac m => simp [encode, wordNat, toNat_memRefWord]
  | mul | div => rfl
  | docMdv ac pulse =>
    cases pulse <;> simp [encode, wordNat, toNat_ioWord, ioNat] <;> omega
  | skpMdv ac f | nioCpu ac f | reads ac f | doaCpu ac f | inta ac f | msko ac f | iorst ac f | halt ac f =>
    simp [encode, wordNat, toNat_ioWord, ioNat]
    omega
  | skpbnCpu ac | skpbzCpu ac | skpdnCpu ac | skpdzCpu ac =>
    simp [encode, wordNat, toNat_ioWord, ioNat]
    omega
  | otherMdv ac op f => simp [encode, wordNat, toNat_ioWord]
  | nio ac f d | dia ac f d | doa ac f d | dib ac f d | dob ac f d | dic ac f d | doc ac f d | skp ac f d =>
    simp [encode, wordNat, toNat_ioWord]

/-! ## Literal words -/

/-- A 16-bit word of the opcode table passes through its two bytes unchanged. -/
theorem decodeTableWord_eq (n : Nat) : decodeTableWord 16 n = some (decode true (BitVec.ofNat 16 n)) := by
  have hword : tableWord 16 n = BitVec.ofNat 16 n := by simp [tableWord, BitVec.ofNat, Fin.ofNat]
  have hbytes (w : Word) : w.extractLsb' 8 8 ++ w.extractLsb' 0 8 = w := BitVec.extractLsb'_append_extractLsb'
  simp only [decodeTableWord, hword, wordBytes, decodeBytes, hbytes]

/-- A number that is the sum of an instruction's fields decodes to it (R90). -/
theorem decodeTableWord_wordNat {i : Instr} (hwf : i.wf true = true) : decodeTableWord 16 (wordNat i) = some i := by
  rw [decodeTableWord_eq, ← wordIsTheSumOfItsFields i, BitVec.ofNat_toNat, BitVec.setWidth_eq,
    decodeEncodeRoundTrip true i hwf]

/-- Settles O5: each literal is the sum of its instruction's fields. -/
theorem literalWordsDecode : Obligations.LiteralWordsDecode :=
  ⟨decodeTableWord_wordNat (i := .jmp ⟨false, .pageZero, 1⟩) rfl,
   decodeTableWord_wordNat (i := .jmp ⟨false, .pcRel, 1⟩) rfl,
   decodeTableWord_wordNat (i := .halt .ac0 .none) rfl,
   decodeTableWord_wordNat (i := .mul) rfl,
   decodeTableWord_wordNat (i := .div) rfl,
   decodeTableWord_wordNat (i := .nioCpu .ac0 .start) rfl,
   decodeTableWord_wordNat (i := .nioCpu .ac0 .clear) rfl,
   decodeTableWord_wordNat (i := .reads .ac0 .none) rfl⟩

end Sys2Proof.Machine
end

section
/-! The opcode table (R79): which rows could be chosen over another, and that the word of a well-formed instruction selects
its own row and none that could be chosen over it. -/

namespace Sys2Proof

/-! ## Rows -/

theorem Row.selectedBy_iff {r : Row} {w : Word} : r.selectedBy w = true ↔ w &&& r.mask = r.pattern := by
  simp [Row.selectedBy]

/-- The patterns of the two rows agree on the bits that both fix. -/
def Row.meets (r r' : Row) : Bool := r.pattern &&& r'.mask == r'.pattern &&& r.mask

theorem Row.meets_of_selectedBy {r r' : Row} {w : Word} (h : r.selectedBy w = true) (h' : r'.selectedBy w = true) :
    r.meets r' = true := by
  rw [Row.selectedBy_iff] at h h'
  rw [Row.meets, beq_iff_eq, ← h, ← h', BitVec.and_assoc, BitVec.and_assoc, BitVec.and_comm r.mask]

/-- A field that a row fixes has the row's value in every word that selects the row. -/
theorem Row.extract_of_selectedBy {r : Row} {w : Word} (h : r.selectedBy w = true) {start len : Nat}
    (hmask : r.mask.extractLsb' start len = BitVec.allOnes len) :
    w.extractLsb' start len = r.pattern.extractLsb' start len := by
  rw [← Row.selectedBy_iff.mp h, BitVec.extractLsb'_and, hmask, BitVec.and_allOnes]

/-- The row `r` would be chosen over `r'`: a word may select both, and `r` has no fewer mask bits. -/
def Row.outranks (r r' : Row) : Bool :=
  r.meets r' && r != r' && decide (maskWeight r'.mask ≤ maskWeight r.mask)

theorem Row.eq_or_lighter {r r' : Row} (hmeets : r.meets r' = true) (hout : r.outranks r' = false) :
    r = r' ∨ maskWeight r.mask < maskWeight r'.mask := by
  simpa [Row.outranks, hmeets, or_iff_not_imp_left] using hout

/-- The rows that another one outranks: a generic I/O row, by one that names a pseudo-device; the row `other MDV`, by one
that fixes OP to SKP, or to DOC with an odd F; the row of DOCS and DOCP, by one that fixes the accumulator to 2. -/
theorem outranks_cases : ∀ mdv, ∀ r ∈ tableRows mdv, ∀ r' ∈ tableRows mdv, r.outranks r' = true →
    (r'.mask = 0xE700#16 ∧ r.mask.extractLsb' 0 6 = BitVec.allOnes 6 ∧
      genericDev mdv (r.pattern.extractLsb' 0 6) = false) ∨
    (r'.mask = 0xE03F#16 ∧ r.mask.extractLsb' 8 3 = BitVec.allOnes 3 ∧ (r.pattern.extractLsb' 8 3 = 7#3 ∨
      r.pattern.extractLsb' 8 3 = 6#3 ∧ r.mask.extractLsb' 6 1 = BitVec.allOnes 1 ∧ r.pattern.extractLsb' 6 1 = 1#1)) ∨
    (r'.mask = 0xE77F#16 ∧ r.mask.extractLsb' 11 2 = BitVec.allOnes 2 ∧ r.pattern.extractLsb' 11 2 = 2#2) := by
  decide

/-! ## The row of an instruction -/

theorem mem_tableRows_of_mem_baseRows {r : Row} (h : r ∈ baseRows) (mdv : Bool) : r ∈ tableRows mdv := by
  cases mdv <;> simp [tableRows, h]

theorem row_mem_tableRows {mdv : Bool} {i : Instr} (hwf : i.wf mdv = true) : i.row ∈ tableRows mdv := by
  cases i with
  | mul | div | docMdv ac pulse | skpMdv ac t | otherMdv ac op f =>
    obtain rfl : mdv = true := by simp_all [Instr.wf]
    simp [tableRows, mdvRows, Instr.row]
  | _ =>
    apply mem_tableRows_of_mem_baseRows
    simp [baseRows, Instr.row]

/-- The law of each constructor, as one law of instructions. -/
theorem encodedRow : ∀ i, Laws.EncodedRow.Statement i
  | .com a => Laws.EncodedRow.com a
  | .neg a => Laws.EncodedRow.neg a
  | .mov a => Laws.EncodedRow.mov a
  | .inc a => Laws.EncodedRow.inc a
  | .adc a => Laws.EncodedRow.adc a
  | .sub a => Laws.EncodedRow.sub a
  | .add a => Laws.EncodedRow.add a
  | .and a => Laws.EncodedRow.and a
  | .jmp m => Laws.EncodedRow.jmp m
  | .jsr m => Laws.EncodedRow.jsr m
  | .isz m => Laws.EncodedRow.isz m
  | .dsz m => Laws.EncodedRow.dsz m
  | .lda ac m => Laws.EncodedRow.lda ac m
  | .sta ac m => Laws.EncodedRow.sta ac m
  | .mul => Laws.EncodedRow.mul
  | .div => Laws.EncodedRow.div
  | .docMdv ac pulse => Laws.EncodedRow.docMdv ac pulse
  | .skpMdv ac t => Laws.EncodedRow.skpMdv ac t
  | .otherMdv ac op f => Laws.EncodedRow.otherMdv ac op f
  | .nioCpu ac f => Laws.EncodedRow.nioCpu ac f
  | .reads ac f => Laws.EncodedRow.reads ac f
  | .doaCpu ac f => Laws.EncodedRow.doaCpu ac f
  | .inta ac f => Laws.EncodedRow.inta ac f
  | .msko ac f => Laws.EncodedRow.msko ac f
  | .iorst ac f => Laws.EncodedRow.iorst ac f
  | .halt ac f => Laws.EncodedRow.halt ac f
  | .skpbnCpu ac => Laws.EncodedRow.skpbnCpu ac
  | .skpbzCpu ac => Laws.EncodedRow.skpbzCpu ac
  | .skpdnCpu ac => Laws.EncodedRow.skpdnCpu ac
  | .skpdzCpu ac => Laws.EncodedRow.skpdzCpu ac
  | .nio ac f d => Laws.EncodedRow.nio ac f d
  | .dia ac f d => Laws.EncodedRow.dia ac f d
  | .doa ac f d => Laws.EncodedRow.doa ac f d
  | .dib ac f d => Laws.EncodedRow.dib ac f d
  | .dob ac f d => Laws.EncodedRow.dob ac f d
  | .dic ac f d => Laws.EncodedRow.dic ac f d
  | .doc ac f d => Laws.EncodedRow.doc ac f d
  | .skp ac t d => Laws.EncodedRow.skp ac t d

theorem row_selectedBy_encode {mdv : Bool} {i : Instr} (hwf : i.wf mdv = true) :
    i.row.selectedBy (encode i) = true := Row.selectedBy_iff.mpr (encodedRow i mdv hwf)

theorem ioWord_extract_f_low (ac : Ac) (op : BitVec 3) (f : BitVec 2) (d : DevCode) :
    (ioWord ac op f d).extractLsb' 6 1 = f.extractLsb' 0 1 := by
  ext i hi
  simp only [ioWord, BitVec.getElem_extractLsb', BitVec.getLsbD_append]
  grind

theorem otherMdvForm_fields (op : IoOp) (f : Ctl) (h : otherMdvForm op f = true) :
    op.toBits ≠ 7#3 ∧ (op.toBits = 6#3 → f.toBits.extractLsb' 0 1 ≠ 1#1) := by
  cases op with
  | doc => cases f <;> simp_all [otherMdvForm, Ctl.toBits, IoOp.toBits]
  | _ => simp [IoOp.toBits]

/-! ## No outranking row is selected

The fields that tell an outranking row from the row of `i`, in the word of a well-formed `i`. -/

section
variable {mdv : Bool} {i : Instr} (hwf : i.wf mdv = true)
include hwf

/-- A word of a generic row names no pseudo-device (R79). -/
theorem genericDev_of_row_mask (hmask : i.row.mask = 0xE700#16) :
    genericDev mdv ((encode i).extractLsb' 0 6) = true := by
  cases i with
  | nio ac f d | dia ac f d | doa ac f d | dib ac f d | dob ac f d | dic ac f d | doc ac f d | skp ac f d =>
    rw [encode, ioWord_extract_dev]
    exact hwf
  | _ => simp [Instr.row] at hmask

/-- A word of the row `other MDV` is no SKP, and no DOC with an odd F (R236). -/
theorem op_ne_of_row_mask (hmask : i.row.mask = 0xE03F#16) :
    (encode i).extractLsb' 8 3 ≠ 7#3 ∧
      ((encode i).extractLsb' 8 3 = 6#3 → (encode i).extractLsb' 6 1 ≠ 1#1) := by
  cases i with
  | otherMdv ac op f =>
    have hform : otherMdvForm op f = true := by simp_all [Instr.wf]
    rw [encode, ioWord_extract_op, ioWord_extract_f_low]
    exact otherMdvForm_fields op f hform
  | _ => simp [Instr.row] at hmask

/-- DOCS and DOCP with accumulator 2 are DIV and MUL (R234). -/
theorem ac_ne_two_of_row_mask (hmask : i.row.mask = 0xE77F#16) : (encode i).extractLsb' 11 2 ≠ 2#2 := by
  cases i with
  | docMdv ac pulse =>
    rw [encode, ioWord_extract_ac]
    cases ac <;> simp_all [Instr.wf, Ac.toBits]
  | _ => simp [Instr.row] at hmask

theorem not_outranks_row {r : Row} (hr : r ∈ tableRows mdv) (hsel : r.selectedBy (encode i) = true) :
    r.outranks i.row = false := by
  rw [Bool.eq_false_iff]
  intro hout
  rcases outranks_cases mdv r hr i.row (row_mem_tableRows hwf) hout with
    ⟨hmask, hfix, hdev⟩ | ⟨hmask, hfix, hop⟩ | ⟨hmask, hfix, hac⟩
  · rw [← Row.extract_of_selectedBy hsel hfix, genericDev_of_row_mask hwf hmask] at hdev
    exact Bool.noConfusion hdev
  · obtain ⟨hskp, hdoc⟩ := op_ne_of_row_mask hwf hmask
    rw [← Row.extract_of_selectedBy hsel hfix] at hop
    rcases hop with hop | ⟨hop, hfixF, hf⟩
    · exact hskp hop
    · exact hdoc hop ((Row.extract_of_selectedBy hsel hfixF).trans hf)
  · exact ac_ne_two_of_row_mask hwf hmask ((Row.extract_of_selectedBy hsel hfix).trans hac)

end

/-- Settles O4: the decoded instruction's row is selected, and no selected row outranks it. -/
theorem decodeTakesMostSpecificRow : Obligations.DecodeTakesMostSpecificRow := by
  intro mdv w
  obtain ⟨i, hwf, rfl⟩ := isInstrWord mdv w
  rw [decodeEncodeRoundTrip mdv i hwf]
  have hown := row_selectedBy_encode hwf
  exact ⟨row_mem_tableRows hwf, hown, fun r hr hsel =>
    Row.eq_or_lighter (Row.meets_of_selectedBy hsel hown) (not_outranks_row hwf hr hsel)⟩

end Sys2Proof
end

section
/-! The ALC data path (R100): its numbers in exact arithmetic, the bits the shifter moves, and what each instruction of
the class leaves in the state. -/

namespace Sys2Proof.Machine

/-! ## The selected carry and the sum -/

theorem carryOf_eq_decide (u : Alu) : carryOf u = decide (65536 ≤ u.toNat) :=
  u.msb_eq_decide

theorem resultOf_eq_ofNat (u : Alu) : resultOf u = BitVec.ofNat 16 u.toNat := rfl

theorem toNat_seededSum (c : Bool) (f : Alu) : (seededSum c f).toNat = seededNat c f.toNat := by
  rw [seededSum, BitVec.toNat_add]
  cases c <;> rfl

/-- A carry out of bit 15 complements the selected carry (R103). -/
@[simp] theorem carryOf_seededSum (c : Bool) (f : Alu) : carryOf (seededSum c f) = (c ^^ carryOf f) := by
  have hf := f.isLt
  rw [carryOf_eq_decide, carryOf_eq_decide, toNat_seededSum, Bool.eq_iff_iff]
  cases c <;> simp [seededNat] <;> omega

/-- The selected carry does not reach the result (R103). -/
@[simp] theorem resultOf_seededSum (c : Bool) (f : Alu) : resultOf (seededSum c f) = resultOf f := by
  apply BitVec.eq_of_toNat_eq
  rw [resultOf_eq_ofNat, resultOf_eq_ofNat, toNat_seededSum, BitVec.toNat_ofNat, BitVec.toNat_ofNat]
  cases c <;> simp [seededNat]

/-! ## The eight functions (R110 to R117) -/

theorem toNat_add_one {f : Alu} (hf : f.toNat < 131071) : (f + 1).toNat = f.toNat + 1 :=
  BitVec.toNat_add_of_lt (y := 1) (Nat.add_lt_of_lt_sub hf)

section
variable (s d : Word)

/-- A word widened to the seventeen bits of the data path keeps its value. -/
theorem toNat_widened : (s.setWidth 17 : Alu).toNat = s.toNat :=
  BitVec.toNat_setWidth_of_le (by decide)

theorem toNat_fMov : (fMov s d).toNat = s.toNat := toNat_widened s

theorem toNat_fCom : (fCom s d).toNat = 65535 - s.toNat := by
  rw [fCom, toNat_widened, BitVec.toNat_not]

/-- NEG is COM and one more. -/
theorem toNat_fNeg : (fNeg s d).toNat = 65536 - s.toNat := by
  have hs := s.isLt
  have hcom := toNat_fCom s d
  have hadd : (fNeg s d).toNat = (fCom s d).toNat + 1 := toNat_add_one (f := fCom s d) (by omega)
  omega

/-- INC is MOV and one more. -/
theorem toNat_fInc : (fInc s d).toNat = s.toNat + 1 := by
  have hs := s.isLt
  have hmov := toNat_fMov s d
  have hadd : (fInc s d).toNat = (fMov s d).toNat + 1 := toNat_add_one (f := fMov s d) (by omega)
  omega

theorem toNat_fAdc : (fAdc s d).toNat = d.toNat + (65535 - s.toNat) := by
  have hd := d.isLt
  rw [fAdc, BitVec.toNat_add, toNat_widened, toNat_widened, BitVec.toNat_not]
  omega

/-- SUB is ADC and one more. -/
theorem toNat_fSub : (fSub s d).toNat = d.toNat + (65536 - s.toNat) := by
  have hs := s.isLt
  have hd := d.isLt
  have hadc := toNat_fAdc s d
  have hadd : (fSub s d).toNat = (fAdc s d).toNat + 1 := toNat_add_one (f := fAdc s d) (by omega)
  omega

theorem toNat_fAdd : (fAdd s d).toNat = d.toNat + s.toNat := by
  have hs := s.isLt
  have hd := d.isLt
  rw [fAdd, BitVec.toNat_add, toNat_widened, toNat_widened]
  omega

theorem toNat_fAnd : (fAnd s d).toNat = d.toNat &&& s.toNat := by
  rw [fAnd, toNat_widened, BitVec.toNat_and]

/-- The word of MOV passes the data path unchanged and carries nothing out (R112). -/
@[simp] theorem resultOf_fMov : resultOf (fMov s d) = s := by
  simp [resultOf, fMov]

@[simp] theorem carryOf_fMov : carryOf (fMov s d) = false := by
  rw [carryOf_eq_decide, toNat_fMov]
  exact decide_eq_false (Nat.not_le.2 s.isLt)

/-- SUB carries out of bit 15 exactly when the source is not above the destination (R119). -/
theorem carryOf_fSub : carryOf (fSub s d) = decide (s.toNat ≤ d.toNat) := by
  have hs := s.isLt
  rw [carryOf_eq_decide, toNat_fSub, decide_eq_decide]
  omega

/-- ADC carries out of bit 15 exactly when the source is below the destination (R119). -/
theorem carryOf_fAdc : carryOf (fAdc s d) = decide (s.toNat < d.toNat) := by
  have hs := s.isLt
  rw [carryOf_eq_decide, toNat_fAdc, decide_eq_decide]
  omega

end

/-! ## The shifter -/

section
variable (t : Alu) {k : Nat}

/-- Left takes the bit below, and bit 16 comes in at bit 0 (R104). -/
theorem getLsbD_shifted_left (hk : k < 17) :
    (shifted .left t).getLsbD k = if k = 0 then t.getLsbD 16 else t.getLsbD (k - 1) := by
  rw [shifted, BitVec.getLsbD_append]
  cases k with
  | zero => simp
  | succ k => simp [show k < 16 by omega]

/-- Right takes the bit above, and bit 0 comes in at bit 16 (R105). -/
theorem getLsbD_shifted_right (hk : k < 17) :
    (shifted .right t).getLsbD k = if k = 16 then t.getLsbD 0 else t.getLsbD (k + 1) := by
  rw [shifted, BitVec.getLsbD_append]
  split
  · next h => simp [h, show k ≠ 16 by omega, Nat.add_comm]
  · next h => simp [show k = 16 by omega]

/-- Swap exchanges the bytes and leaves bit 16 (R106). -/
theorem getLsbD_shifted_swap (hk : k < 17) :
    (shifted .swap t).getLsbD k =
      if k < 8 then t.getLsbD (k + 8) else if k < 16 then t.getLsbD (k - 8) else t.getLsbD 16 := by
  rw [shifted, BitVec.getLsbD_append, BitVec.getLsbD_append]
  split
  · split
    · next h => simp [h, Nat.add_comm]
    · simp [show k - 8 < 8 by omega]
  · next h => simp [show k = 16 by omega]

end

/-- Settles O25, from the bits of each shift. -/
theorem shifterRotatesThroughCarry : Obligations.ShifterRotatesThroughCarry := by
  intro t
  refine ⟨fun k hk => ?_, ?_, fun k hk => ?_, ?_, fun k hk => ?_, fun k hk => ?_, ?_, rfl⟩
  · rw [getLsbD_shifted_left t (by omega), if_neg k.succ_ne_zero, Nat.add_sub_cancel]
  · rw [getLsbD_shifted_left t (by decide), if_pos rfl]
  · rw [getLsbD_shifted_right t (by omega), if_neg (by omega)]
  · rw [getLsbD_shifted_right t (by decide), if_pos rfl]
  · rw [getLsbD_shifted_swap t (by omega), if_pos hk]
  · rw [getLsbD_shifted_swap t (by omega), if_neg (by omega), if_pos (by omega), Nat.add_sub_cancel]
  · rw [getLsbD_shifted_swap t (by decide), if_neg (by decide), if_neg (by decide)]

/-- Rotating left is a cycle of the seventeen bit places: `n` rotations move every bit up by `n`, modulo 17. -/
theorem getLsbD_shifted_left_iterate (t : Alu) (n : Nat) {k : Nat} (hk : k < 17) :
    ((shifted .left)^[n] t).getLsbD k = t.getLsbD ((k + 16 * n) % 17) := by
  induction n generalizing k with
  | zero => simp [Nat.mod_eq_of_lt hk]
  | succ n ih =>
    rw [Function.iterate_succ_apply', getLsbD_shifted_left _ hk]
    split
    · rw [ih (by decide)]
      congr 1
      omega
    · rw [ih (by omega)]
      congr 1
      omega

theorem shifted_left_iterate_seventeen (t : Alu) : (shifted .left)^[17] t = t := by
  apply BitVec.eq_of_getLsbD_eq
  intro k hk
  rw [getLsbD_shifted_left_iterate t 17 hk, Nat.add_mul_mod_self_right, Nat.mod_eq_of_lt hk]

theorem shifted_right_left (t : Alu) : shifted .right (shifted .left t) = t := by
  apply BitVec.eq_of_getLsbD_eq
  intro k hk
  rw [getLsbD_shifted_right _ hk]
  split
  · next h => rw [getLsbD_shifted_left t (by decide), if_pos rfl, h]
  · next h => rw [getLsbD_shifted_left t (by omega), if_neg k.succ_ne_zero, Nat.add_sub_cancel]

theorem shifted_left_right (t : Alu) : shifted .left (shifted .right t) = t := by
  apply BitVec.eq_of_getLsbD_eq
  intro k hk
  rw [getLsbD_shifted_left _ hk]
  split
  · next h => rw [getLsbD_shifted_right t (by decide), if_pos rfl, h]
  · next h => rw [getLsbD_shifted_right t (by omega), if_neg (by omega), Nat.sub_add_cancel (by omega)]

theorem shifted_swap_swap (t : Alu) : shifted .swap (shifted .swap t) = t := by
  apply BitVec.eq_of_getLsbD_eq
  intro k hk
  rw [getLsbD_shifted_swap _ hk]
  split
  · rw [getLsbD_shifted_swap t (by omega), if_neg (by omega), if_pos (by omega), Nat.add_sub_cancel]
  · split
    · rw [getLsbD_shifted_swap t (by omega), if_pos (by omega), Nat.sub_add_cancel (by omega)]
    · rw [getLsbD_shifted_swap t (by decide), if_neg (by decide), if_neg (by decide)]
      congr 1
      omega

/-- Settles O30: seventeen rotations right undo the seventeen rotations left that change nothing. -/
theorem rotationsComeBack : Obligations.RotationsComeBack := by
  intro t
  have hright : (shifted .right)^[17] t = t := by
    have hundo := Function.LeftInverse.iterate shifted_right_left 17 t
    rwa [shifted_left_iterate_seventeen] at hundo
  exact ⟨shifted_left_iterate_seventeen t, hright, shifted_swap_swap t, shifted_right_left t, shifted_left_right t⟩

/-- The shifter in exact arithmetic (R104 to R106). -/
theorem toNat_shifted (sh : Shift) (t : Alu) : (shifted sh t).toNat = shiftedNat sh t.toNat := by
  have ht := t.isLt
  cases sh with
  | none => rfl
  | left | right | swap =>
    simp only [shifted, shiftedNat, toNat_append_eq_add, BitVec.extractLsb'_toNat, Nat.shiftRight_eq_div_pow]
    omega

/-! ## The state after an ALC instruction -/

/-- What the data path leaves: the accumulators and carry unless NL is set, PC, and every other field as it was
(R100). -/
theorem State.alc_eq (s : State) (fn : Word → Word → Alu) (a : AlcFields) :
    s.alc fn a = { s with
      acs := if a.nl then s.acs else s.acs.set a.acd (resultOf (s.alcValue fn a)),
      carry := if a.nl then s.carry else carryOf (s.alcValue fn a),
      pc := if skipHolds a.sk (carryOf (s.alcValue fn a)) (resultOf (s.alcValue fn a)) then s.pc + 1 else s.pc } := rfl

/-- The data path in exact arithmetic, from the number that its function value is. -/
theorem State.alc_eq_afterAlc {s : State} {fn : Word → Word → Alu} {a : AlcFields} {f : Nat}
    (hf : (fn (s.ac a.acs) (s.ac a.acd)).toNat = f) : s.alc fn a = s.afterAlc a f := by
  have hvalue : (s.alcValue fn a).toNat = shiftedNat a.sh (seededNat (carrySelect a.cy s.carry) f) := by
    rw [State.alcValue, toNat_shifted, toNat_seededSum, hf]
  rw [State.alc_eq, carryOf_eq_decide, resultOf_eq_ofNat, hvalue]
  rfl

/-- Settles O23, from the number each function value is. -/
theorem unaryAlcResults : Obligations.UnaryAlcResults := fun _ _ =>
  ⟨congrArg _ (State.alc_eq_afterAlc (toNat_fCom _ _)), congrArg _ (State.alc_eq_afterAlc (toNat_fNeg _ _)),
    congrArg _ (State.alc_eq_afterAlc (toNat_fMov _ _)), congrArg _ (State.alc_eq_afterAlc (toNat_fInc _ _))⟩

/-- Settles O24, from the number each function value is. -/
theorem binaryAlcResults : Obligations.BinaryAlcResults := fun _ _ =>
  ⟨congrArg _ (State.alc_eq_afterAlc (toNat_fAdc _ _)), congrArg _ (State.alc_eq_afterAlc (toNat_fSub _ _)),
    congrArg _ (State.alc_eq_afterAlc (toNat_fAdd _ _)), congrArg _ (State.alc_eq_afterAlc (toNat_fAnd _ _))⟩

/-- Every instruction of the class is the data path over its function (R80, R100). -/
theorem exec_eq_alc {i : Instr} {fn : Word → Word → Alu} {a : AlcFields}
    (h : (i, fn) ∈ [(Instr.com a, fCom), (Instr.neg a, fNeg), (Instr.mov a, fMov), (Instr.inc a, fInc),
      (Instr.adc a, fAdc), (Instr.sub a, fSub), (Instr.add a, fAdd), (Instr.and a, fAnd)]) (s : State) :
    exec i s = .next (s.alc fn a) := by
  simp only [List.mem_cons, List.not_mem_nil, or_false, Prod.mk.injEq] at h
  rcases h with ⟨rfl, rfl⟩ | ⟨rfl, rfl⟩ | ⟨rfl, rfl⟩ | ⟨rfl, rfl⟩ |
    ⟨rfl, rfl⟩ | ⟨rfl, rfl⟩ | ⟨rfl, rfl⟩ | ⟨rfl, rfl⟩ <;> rfl

/-- Settles O27, from the fields the data path writes. -/
theorem noLoadDiscardsResultAndCarry : Obligations.NoLoadDiscardsResultAndCarry := by
  intro i fn a s hi
  refine ⟨s.alc fn a, exec_eq_alc hi s, fun hnl => ?_, fun hnl => ?_⟩
  · simp [State.alc_eq, hnl]
  · simp [State.alc_eq, hnl]

/-- PC is one further exactly under the condition that the skip sensor tests (R107). -/
theorem State.alc_pc (s : State) (fn : Word → Word → Alu) (a : AlcFields) {p : Prop} [Decidable p]
    (h : skipHolds a.sk (carryOf (s.alcValue fn a)) (resultOf (s.alcValue fn a)) = true ↔ p) :
    (s.alc fn a).pc = if p then s.pc + 1 else s.pc :=
  if_congr h rfl rfl

/-- Settles O26: each SKIP code names the condition of the skip sensor. -/
theorem skipFollowsCandidateAndResult : Obligations.SkipFollowsCandidateAndResult := by
  rintro i fn a s cc r hi rfl rfl
  refine ⟨s.alc fn a, exec_eq_alc hi s, fun never => ?_, fun skp => ?_, fun szc => s.alc_pc fn a ?_,
    fun snc => s.alc_pc fn a ?_, fun szr => s.alc_pc fn a ?_, fun snr => s.alc_pc fn a ?_,
    fun sez => s.alc_pc fn a ?_, fun sbn => s.alc_pc fn a ?_⟩
  · exact (s.alc_pc fn a (p := False) (by simp [never, skipHolds])).trans (if_neg id)
  · exact (s.alc_pc fn a (p := True) (by simp [skp, skipHolds])).trans (if_pos trivial)
  · simp [szc, skipHolds]
  · simp [snc, skipHolds]
  · simp [szr, skipHolds]
  · simp [snr, skipHolds]
  · simp [sez, skipHolds]
  · simp [sbn, skipHolds]

/-- With no shift, no load and the carry cleared, the skip sensor sees the function value itself and PC alone
changes. -/
theorem State.alc_compare {s : State} {fn : Word → Word → Alu} {x y : Ac} {sk : Skip} {p : Prop} [Decidable p]
    (h : skipHolds sk (carryOf (fn (s.ac x) (s.ac y))) (resultOf (fn (s.ac x) (s.ac y))) = true ↔ p) :
    s.alc fn ⟨x, y, .none, .zero, true, sk⟩ = { s with pc := if p then s.pc + 1 else s.pc } := by
  simp [State.alc_eq, State.alcValue, shifted, carrySelect, h]

/-- Settles O29, from the carries out of SUB and ADC. -/
theorem carryComparesUnsigned : Obligations.CarryComparesUnsigned := by
  intro x y s
  refine ⟨congrArg Host.Outcome.next (State.alc_compare ?_), congrArg Host.Outcome.next (State.alc_compare ?_),
    congrArg Host.Outcome.next (State.alc_compare ?_), congrArg Host.Outcome.next (State.alc_compare ?_)⟩
  · simp [skipHolds, carryOf_fSub]
  · simp [skipHolds, carryOf_fSub]
  · simp [skipHolds, carryOf_fAdc]
  · simp [skipHolds, carryOf_fAdc]

/-- Settles O28: MOV carries nothing out, so the candidate is the selected carry and the result is the source. -/
theorem movSelectsCarry : Obligations.MovSelectsCarry := by
  intro acs acd cy s
  have hmov : exec (.mov ⟨acs, acd, .none, cy, false, .never⟩) s =
      .next (s.alc fMov ⟨acs, acd, .none, cy, false, .never⟩) := rfl
  have hcarry : carryOf (s.alcValue fMov ⟨acs, acd, .none, cy, false, .never⟩) = carrySelect cy s.carry := by
    simp [State.alcValue, shifted]
  have hresult : resultOf (s.alcValue fMov ⟨acs, acd, .none, cy, false, .never⟩) = s.ac acs := by
    simp [State.alcValue, shifted]
  rw [hmov, State.alc_eq, hcarry, hresult]
  cases cy <;> rfl

end Sys2Proof.Machine
end

section
/-! The address of a memory reference in exact arithmetic (R141, R142, R146). -/

namespace Sys2Proof.Machine

theorem toNat_maskAddr (v : Word) : (maskAddr v).toNat = v.toNat % 32768 := BitVec.toNat_setWidth 15 v

theorem toNat_zext (a : Addr) : (zext a).toNat = a.toNat := BitVec.toNat_setWidth_of_le (by decide)

@[simp] theorem maskAddr_zext (a : Addr) : maskAddr (zext a) = a := by
  apply BitVec.eq_of_toNat_eq
  have ha := a.isLt
  rw [toNat_maskAddr, toNat_zext]
  omega

theorem toInt_sextDisp (disp : BitVec 8) : (sextDisp disp).toInt = disp.toInt :=
  BitVec.toInt_signExtend_of_le (by decide)

/-- A relative address is the base plus the signed displacement, modulo 2^15 (R142, R146). -/
theorem toNat_maskAddr_add_sextDisp (base : Word) (disp : BitVec 8) :
    ((maskAddr (base + sextDisp disp)).toNat : Int) = (base.toNat + disp.toInt) % 32768 := by
  have hdisp := toInt_sextDisp disp
  rw [BitVec.toInt_eq_toNat_cond] at hdisp
  rw [toNat_maskAddr, BitVec.toNat_add]
  split at hdisp <;> omega

/-- The base of the mode relative to PC is the instruction's own address (R141). -/
theorem toNat_zext_sub_one (a : Addr) : ((zext a - 1).toNat : Int) % 32768 = (a.toNat - 1) % 32768 := by
  have ha := a.isLt
  have hone : (1 : Word).toNat = 1 := rfl
  rw [BitVec.toNat_sub, toNat_zext, hone]
  omega

/-- The mode address, masked, is the number that the table of modes gives (R141). -/
theorem State.toNat_modeAddress (s : State) (m : EaFields) :
    ((maskAddr (s.modeAddress m)).toNat : Int) = modeAddressNat s m := by
  unfold State.modeAddress modeAddressNat
  cases m.mode with
  | pageZero =>
    have hdisp := m.disp.isLt
    simp only [toNat_maskAddr, BitVec.toNat_setWidth]
    omega
  | pcRel =>
    have hbase := toNat_zext_sub_one s.pc
    simp only [toNat_maskAddr_add_sextDisp]
    omega
  | ac2Rel | ac3Rel => exact toNat_maskAddr_add_sextDisp _ m.disp

/-- A direct reference is to the mode address, and its resolution leaves memory (R143 with I = 0). -/
theorem State.resolve_direct {m : EaFields} (h : m.ind = false) (s : State) :
    s.resolve m = .ends (maskAddr (s.modeAddress m)) s.mem := by
  simp [State.resolve, h]

/-- An indirect reference follows the chain from the mode address, with the hops that HOP_CAP allows (R143, R147). -/
theorem State.resolve_indirect {m : EaFields} (h : m.ind = true) (s : State) :
    s.resolve m = chase (hopLimit s.cfg) s.mem (maskAddr (s.modeAddress m)) := by
  simp [State.resolve, State.followChain, h]

/-- With HOP_CAP finite it is the limit of an indirect reference's hops (R147). -/
theorem State.resolve_of_hopCap {s : State} {m : EaFields} {n : Nat} (hind : m.ind = true)
    (hcap : s.cfg.hopCap = some n) : s.resolve m = chase n s.mem (maskAddr (s.modeAddress m)) := by
  rw [s.resolve_indirect hind, hopLimit, hcap]

/-- Settles O31, from the number each mode gives. -/
theorem modeAddressArithmetic : Obligations.ModeAddressArithmetic :=
  fun s m => ⟨s.toNat_modeAddress m, fun h => s.resolve_direct h⟩

end Sys2Proof.Machine
end

section
/-! Each memory-reference instruction is its operation at the address of its resolution (R140, R149 to R154). -/

namespace Sys2Proof.Machine

section
variable (ac : Ac) (m : EaFields) (s : State)

theorem exec_jmp : exec (.jmp m) s = s.atAddress m fun e t => t.setPc e := rfl

theorem exec_jsr : exec (.jsr m) s = s.atAddress m fun e t => (t.setAc .ac3 (zext t.pc)).setPc e := rfl

theorem exec_isz :
    exec (.isz m) s = s.atAddress m fun e t => (t.write e (t.read e + 1)).skipIf (t.read e + 1 == 0) := rfl

theorem exec_dsz :
    exec (.dsz m) s = s.atAddress m fun e t => (t.write e (t.read e - 1)).skipIf (t.read e - 1 == 0) := rfl

theorem exec_lda : exec (.lda ac m) s = s.atAddress m fun e t => t.setAc ac (t.read e) := rfl

theorem exec_sta : exec (.sta ac m) s = s.atAddress m fun e t => t.write e (t.ac ac) := rfl

end

end Sys2Proof.Machine
end

section
/-! Indirect chains, hop by hop: what a hop uses and writes by the range its cell is in (R145), where a run of hops
through cells that are not auto-indexed leads, and the IndirectLoop stop (R147). -/

namespace Sys2Proof.Machine

/-! ## A store of one word -/

/-- `m'` holds `v` at `a` and has every byte outside that word as `m` has it. -/
def ChangesWord (m : Memory) (a : Addr) (v : Word) (m' : Memory) : Prop :=
  m'.readWord a = v ∧ ∀ k, k ≠ loCell a → k ≠ hiCell a → m'.readByte k = m.readByte k

theorem changesWord_writeWord {m : Memory} (hw : m.wf = true) (a : Addr) (v : Word) :
    ChangesWord m a v (m.writeWord a v) := by
  refine ⟨Memory.readWord_writeWord_same hw a v, fun k hlo hhi => ?_⟩
  rw [Memory.readByte_writeWord hw, if_neg hhi, if_neg hlo]

/-! ## One hop -/

section
variable {a : Addr} (m : Memory) (w : Word)

/-- Outside the auto-index cells a hop uses the word as loaded and writes nothing (R143, R57). -/
theorem hop_plain (h : a.toNat < 0o20 ∨ 0o37 < a.toNat) : hopWord a w = w ∧ hopMemory m a w = m := by
  have hinc : isAutoInc a = false := decide_eq_false (by omega)
  have hdec : isAutoDec a = false := decide_eq_false (by omega)
  simp [hopWord, hopMemory, hinc, hdec]

/-- In an auto-increment cell a hop stores and uses the word plus one (R145). -/
theorem hop_autoInc (h : 0o20 ≤ a.toNat) (h' : a.toNat ≤ 0o27) :
    hopWord a w = w + 1 ∧ hopMemory m a w = m.writeWord a (w + 1) := by
  have hinc : isAutoInc a = true := decide_eq_true ⟨h, h'⟩
  simp [hopWord, hopMemory, hinc]

/-- In an auto-decrement cell a hop stores and uses the word minus one (R145). -/
theorem hop_autoDec (h : 0o30 ≤ a.toNat) (h' : a.toNat ≤ 0o37) :
    hopWord a w = w - 1 ∧ hopMemory m a w = m.writeWord a (w - 1) := by
  have hinc : isAutoInc a = false := decide_eq_false (by omega)
  have hdec : isAutoDec a = true := decide_eq_true ⟨h, h'⟩
  simp [hopWord, hopMemory, hinc, hdec]

end

/-- A hop writes in the auto-index cells, the bytes 32 to 63, alone (R57, R145). -/
theorem readByte_hopMemory {m : Memory} (hw : m.wf = true) (a : Addr) (w : Word) {k : Nat} (hk : k < 32 ∨ 64 ≤ k) :
    (hopMemory m a w).readByte k = m.readByte k := by
  by_cases ha : a.toNat < 0o20 ∨ 0o37 < a.toNat
  · rw [(hop_plain m w ha).2]
  · have hwrites : hopMemory m a w = m.writeWord a (hopWord a w) := by
      refine if_pos ?_
      simp only [isAutoInc, isAutoDec, Bool.or_eq_true, decide_eq_true_eq]
      omega
    rw [hwrites]
    exact (changesWord_writeWord hw a (hopWord a w)).2 k (by simp only [loCell]; omega) (by simp only [hiCell]; omega)

/-- A hop whose loaded word has bit 15 clear ends the chain (R143). -/
theorem chase_of_last {m : Memory} {a : Addr} (h : (m.readWord a).getLsbD 15 = false) (n : Nat) :
    chase (n + 1) m a = .ends (maskAddr (hopWord a (m.readWord a))) (hopMemory m a (m.readWord a)) := by
  rw [chase_succ, h]
  rfl

/-- A hop whose loaded word has bit 15 set goes on from the word it used (R144). -/
theorem chase_of_more {m : Memory} {a : Addr} (h : (m.readWord a).getLsbD 15 = true) (n : Nat) :
    chase (n + 1) m a = chase n (hopMemory m a (m.readWord a)) (maskAddr (hopWord a (m.readWord a))) := by
  rw [chase_succ, h]
  rfl

/-- What follows a hop at `a` that loaded `w`, by the range that `a` is in. `f` is what a chain does with the address
and the memory that the hop hands on: it ends there, or goes on from there. -/
theorem hop_ranges {α : Type} (f : Addr → Memory → α) {m : Memory} (hw : m.wf = true) {a : Addr} {x : α}
    {w : Word} (hx : x = f (maskAddr (hopWord a w)) (hopMemory m a w)) :
    (a.toNat < 0o20 ∨ 0o37 < a.toNat → x = f (maskAddr w) m) ∧
    (0o20 ≤ a.toNat → a.toNat ≤ 0o27 → ∃ m', x = f (maskAddr (w + 1)) m' ∧ ChangesWord m a (w + 1) m') ∧
    (0o30 ≤ a.toNat → a.toNat ≤ 0o37 → ∃ m', x = f (maskAddr (w - 1)) m' ∧ ChangesWord m a (w - 1) m') := by
  refine ⟨fun h => ?_, fun h h' => ?_, fun h h' => ?_⟩
  · obtain ⟨hword, hmem⟩ := hop_plain m w h
    rw [hx, hword, hmem]
  · obtain ⟨hword, hmem⟩ := hop_autoInc m w h h'
    exact ⟨_, by rw [hx, hword, hmem], changesWord_writeWord hw a (w + 1)⟩
  · obtain ⟨hword, hmem⟩ := hop_autoDec m w h h'
    exact ⟨_, by rw [hx, hword, hmem], changesWord_writeWord hw a (w - 1)⟩

/-! ## Whole chains -/

/-- A chain writes in the auto-index cells alone, by induction on the hops it may make. -/
theorem readByte_chase {m : Memory} (hw : m.wf = true) (n : Nat) (a : Addr) {k : Nat} (hk : k < 32 ∨ 64 ≤ k) :
    (chase n m a).memory.readByte k = m.readByte k := by
  induction n generalizing m a with
  | zero => rfl
  | succ n ih =>
    have hhop := readByte_hopMemory hw a (m.readWord a) hk
    cases h : (m.readWord a).getLsbD 15 with
    | true => rw [chase_of_more h, ih (wf_hopMemory hw a _), hhop]
    | false =>
      rw [chase_of_last h]
      exact hhop

/-- Settles O33: a direct reference writes nothing, an indirect one follows a chain. -/
theorem chainsWriteOnlyAutoIndexCells : Obligations.ChainsWriteOnlyAutoIndexCells := by
  intro s m k hw hk
  cases h : m.ind with
  | true =>
    rw [s.resolve_indirect h]
    exact readByte_chase hw _ _ hk
  | false =>
    rw [s.resolve_direct h]
    rfl

/-- A word with bit 15 set over the address `b`. -/
theorem link_fields (b : Addr) :
    (0x8000#16 ||| zext b).getLsbD 15 = true ∧ maskAddr (0x8000#16 ||| zext b) = b := by
  constructor
  · simp
  · have hor : maskAddr (0x8000#16 ||| zext b) = maskAddr 0x8000#16 ||| maskAddr (zext b) := BitVec.setWidth_or
    have hzero : maskAddr 0x8000#16 = 0 := rfl
    rw [hor, hzero, maskAddr_zext]
    exact BitVec.zero_or

/-- Hops through `n` cells that are not auto-indexed, each naming the next, leave memory and lead to the last. -/
theorem chase_along {m : Memory} {cell : Nat → Addr} {n : Nat}
    (hplain : ∀ k, k < n → (cell k).toNat < 0o20 ∨ 0o37 < (cell k).toNat)
    (hlink : ∀ k, k < n → m.readWord (cell k) = 0x8000#16 ||| zext (cell (k + 1))) (j : Nat) :
    chase (n + j) m (cell 0) = chase j m (cell n) := by
  induction n generalizing j with
  | zero => rw [Nat.zero_add]
  | succ n ih =>
    obtain ⟨hmore, hnext⟩ := link_fields (cell (n + 1))
    rw [← hlink n (Nat.lt_succ_self n)] at hmore hnext
    obtain ⟨hword, hmem⟩ := hop_plain m (m.readWord (cell n)) (hplain n (Nat.lt_succ_self n))
    calc chase (n + 1 + j) m (cell 0)
        = chase (n + (j + 1)) m (cell 0) := by rw [Nat.add_assoc, Nat.add_comm 1 j]
      _ = chase (j + 1) m (cell n) :=
          ih (fun k hk => hplain k (Nat.lt_succ_of_lt hk)) (fun k hk => hlink k (Nat.lt_succ_of_lt hk)) (j + 1)
      _ = chase j m (cell (n + 1)) := by rw [chase_of_more hmore, hword, hmem, hnext]

/-! ## The IndirectLoop stop -/

theorem State.indirectLoop_of_finite {s : State} (h : s.cfg.hopCap ≠ none) :
    s.indirectLoop = .next { s with latch := .indirectLoop, run := .stopped } := by
  unfold State.indirectLoop
  cases hc : s.cfg.hopCap with
  | some n => rfl
  | none => exact absurd hc h

theorem State.indirectLoop_of_infinite {s : State} (h : s.cfg.hopCap = none) :
    s.indirectLoop = .fault .indirectHang := by
  unfold State.indirectLoop
  rw [h]

/-- A memory reference whose chain runs out of hops, none of which wrote, does nothing but the stop (R147). -/
theorem exec_of_loops {i : Instr} {ac : Ac} {m : EaFields}
    (hi : i ∈ [Instr.jmp m, Instr.jsr m, Instr.isz m, Instr.dsz m, Instr.lda ac m, Instr.sta ac m]) {s : State}
    (h : s.resolve m = .loops s.mem) : exec i s = s.indirectLoop := by
  have hat : ∀ k, s.atAddress m k = s.indirectLoop := fun k => by
    rw [State.atAddress, h]
    rfl
  simp only [List.mem_cons, List.not_mem_nil, or_false] at hi
  rcases hi with rfl | rfl | rfl | rfl | rfl | rfl <;>
    simp only [exec_jmp, exec_jsr, exec_isz, exec_dsz, exec_lda, exec_sta, hat]

/-- Settles O34: the cell is a chain of any length through itself, so all the hops lead back to it. -/
theorem endlessChainStopsTheCore : Obligations.EndlessChainStopsTheCore := by
  intro i ac m s a hi hind haddr hplain hself
  have hchase : chase (hopLimit s.cfg + 0) s.mem a = chase 0 s.mem a :=
    chase_along (cell := fun _ => a) (fun _ _ => hplain) (fun _ _ => hself) 0
  have hloops : s.resolve m = .loops s.mem := by
    rw [s.resolve_indirect hind, haddr]
    exact hchase
  rw [exec_of_loops hi hloops]
  exact ⟨State.indirectLoop_of_finite, State.indirectLoop_of_infinite⟩

/-- Settles O32: a hop by the range of its cell, for the last hop and for one that goes on; and a run of hops, with one
more hop to make or with none left. -/
theorem lastHopUsesOrAutoIndexesTheCell : Obligations.LastHopUsesOrAutoIndexesTheCell := by
  refine ⟨fun s m a hind hcap hw hlast haddr => ?_, fun _ _ _ => State.resolve_of_hopCap,
    fun n mem a hw hmore => hop_ranges (fun b m' => chase n m' b) hw (chase_of_more hmore n),
    fun s m n cell hind haddr hplain hlink hlast => ⟨fun hcap => ?_, fun hcap ac i hi => ?_⟩⟩
  · obtain ⟨n, hlimit⟩ := hopLimit_succ hcap
    refine hop_ranges Chain.ends hw ?_
    rw [s.resolve_indirect hind, haddr, hlimit, chase_of_last hlast]
  · obtain ⟨hword, hmem⟩ := hop_plain s.mem (s.mem.readWord (cell n)) (hplain n le_rfl)
    rw [State.resolve_of_hopCap hind hcap, haddr, chase_along (fun k hk => hplain k hk.le) hlink, chase_of_last hlast,
      hword, hmem]
  · have hloops : s.resolve m = .loops s.mem := by
      rw [State.resolve_of_hopCap hind hcap, haddr]
      exact chase_along (fun k hk => hplain k hk.le) hlink 0
    rw [exec_of_loops hi hloops, State.indirectLoop_of_finite (by simp [hcap])]

end Sys2Proof.Machine
end

section
/-! The memory-reference instructions at the address their resolution ends at (R149 to R154). -/

namespace Sys2Proof.Machine

/-! ## Jumps and loads -/

/-- Settles O35, from the operation of each instruction at the address. -/
theorem jumpsAndLoads : Obligations.JumpsAndLoads :=
  fun ac m s _ _ h => ⟨(exec_jmp m s).trans (State.atAddress_ends h _),
    (exec_jsr m s).trans (State.atAddress_ends h _), (exec_lda ac m s).trans (State.atAddress_ends h _)⟩

/-- Settles O36: the address is resolved with the old AC3. -/
theorem jsrJumpsFromTheOldAc3 : Obligations.JsrJumpsFromTheOldAc3 := by
  intro disp s
  have hresolve := s.resolve_direct (m := ⟨false, .ac3Rel, disp⟩) rfl
  obtain ⟨-, hjsr, -⟩ := jumpsAndLoads .ac3 _ s _ _ hresolve
  exact ⟨_, hjsr, s.toNat_modeAddress ⟨false, .ac3Rel, disp⟩, toNat_zext s.pc, rfl⟩

/-! ## Stores and counts -/

theorem State.wf_of_resolve_ends {s : State} {m : EaFields} {e : Addr} {m' : Memory} (hw : s.mem.wf = true)
    (h : s.resolve m = .ends e m') : m'.wf = true := by
  have hwf := State.wf_resolve hw m
  rwa [h] at hwf

/-- Settles O37: one word is stored over the memory that the hops left. -/
theorem staStoresTheAccumulator : Obligations.StaStoresTheAccumulator := by
  intro ac m s e m' hw h
  have hw' := State.wf_of_resolve_ends hw h
  exact ⟨_, (exec_sta ac m s).trans (State.atAddress_ends h _), rfl, changesWord_writeWord hw' e (s.ac ac)⟩

/-- The state after a count that came to `v` at `e`, over the memory `m'` that the hops left (R151, R152). -/
def State.counted (s : State) (m' : Memory) (e : Addr) (v : Word) : State :=
  { s with mem := m'.writeWord e v, pc := if v == 0 then s.pc + 1 else s.pc }

theorem exec_isz_ends {s : State} {m : EaFields} {e : Addr} {m' : Memory} (h : s.resolve m = .ends e m') :
    exec (.isz m) s = .next (s.counted m' e (m'.readWord e + 1)) :=
  (exec_isz m s).trans (State.atAddress_ends h _)

theorem exec_dsz_ends {s : State} {m : EaFields} {e : Addr} {m' : Memory} (h : s.resolve m = .ends e m') :
    exec (.dsz m) s = .next (s.counted m' e (m'.readWord e - 1)) :=
  (exec_dsz m s).trans (State.atAddress_ends h _)

/-- A count stores its word, skips when the number `n` that the word is comes to 0, and changes nothing else. -/
theorem State.counted_effect (s : State) {m' : Memory} (hw : m'.wf = true) (e : Addr) {v : Word} {n : Nat}
    (hv : v.toNat = n) {p : Prop} [Decidable p] (hp : n = 0 ↔ p) :
    s.counted m' e v = { s with mem := (s.counted m' e v).mem, pc := (s.counted m' e v).pc } ∧
    ((s.counted m' e v).mem.readWord e).toNat = n ∧
    (s.counted m' e v).pc = (if p then s.pc + 1 else s.pc) ∧
    ∀ k, k ≠ loCell e → k ≠ hiCell e → (s.counted m' e v).mem.readByte k = m'.readByte k := by
  obtain ⟨hword, hframe⟩ := changesWord_writeWord hw e v
  have hskip : (v == 0) = true ↔ p := by
    rw [beq_iff_eq, ← hp, ← hv, BitVec.toNat_eq]
    rfl
  exact ⟨rfl, (congrArg BitVec.toNat hword).trans hv, if_congr hskip rfl rfl, hframe⟩

/-- Settles O38: the count in exact arithmetic, and when it comes to 0. -/
theorem iszDszCountAndSkip : Obligations.IszDszCountAndSkip := by
  intro m s e m' hw h
  have hw' := State.wf_of_resolve_ends hw h
  have hlt := (m'.readWord e).isLt
  have hinc : (m'.readWord e + 1).toNat = ((m'.readWord e).toNat + 1) % 65536 := BitVec.toNat_add _ _
  have hdec : (m'.readWord e - 1).toNat = ((m'.readWord e).toNat + 65535) % 65536 := by
    rw [BitVec.toNat_sub, Nat.add_comm]
    rfl
  exact ⟨⟨_, exec_isz_ends h, s.counted_effect hw' e hinc (by omega)⟩,
    ⟨_, exec_dsz_ends h, s.counted_effect hw' e hdec (by omega)⟩⟩

end Sys2Proof.Machine
end

section
/-! PC after an instruction: where the fetch left it, or one word further after a skip; jumps alone leave the sequence
(R155). -/

namespace Sys2Proof.Machine

/-- PC of `t` is that of `s` or one further. -/
def InSequence (s t : State) : Prop := t.pc = s.pc ∨ t.pc = s.pc + 1

/-- Every next state that the outcome `r` answers is in sequence after `s`. -/
def StaysInSequence (s : State) (r : Result) : Prop := ∀ t, r = .next t → InSequence s t

theorem staysInSequence_next {s t : State} : StaysInSequence s (.next t) ↔ InSequence s t := by
  simp [StaysInSequence]

theorem staysInSequence_of_pc_eq {s t : State} (h : t.pc = s.pc) : StaysInSequence s (.next t) :=
  staysInSequence_next.2 (.inl h)

/-- A skip passes one word (R9). -/
theorem inSequence_skipIf {s t : State} (h : t.pc = s.pc) (b : Bool) : InSequence s (t.skipIf b) := by
  cases b with
  | true => exact .inr (congrArg (· + 1) h)
  | false => exact .inl h

theorem staysInSequence_skipIf {s t : State} (h : t.pc = s.pc) (b : Bool) : StaysInSequence s (.next (t.skipIf b)) :=
  staysInSequence_next.2 (inSequence_skipIf h b)

/-- The hops and the IndirectLoop stop leave PC, so a memory reference stays in sequence if its operation does. -/
theorem staysInSequence_atAddress {s : State} {k : Addr → State → State} (hk : ∀ e t, InSequence t (k e t))
    (m : EaFields) : StaysInSequence s (s.atAddress m k) := by
  intro t h
  rcases State.atAddress_cases h with ⟨e, m', -, rfl⟩ | ⟨m', -, -, rfl⟩
  · exact hk e { s with mem := m' }
  · exact .inl rfl

theorem State.pc_cpuControl (s : State) (f : Ctl) : (s.cpuControl f).pc = s.pc := by rw [State.cpuControl_eq]

theorem State.pc_control (s : State) (f : Ctl) (d : DevCode) : (s.control f d).pc = s.pc := by
  rw [State.control_frame]

theorem State.pc_ioInput (s : State) (data : Controller → Option Word) (ac : Ac) (f : Ctl) (d : DevCode) :
    (s.ioInput data ac f d).pc = s.pc := by
  rcases s.ioInput_cases data ac f d with ⟨-, h⟩ | ⟨-, w, -, -, h⟩ | ⟨-, -, -, h⟩
  · rw [h]
  · rw [h, State.pc_control, State.setAc_pc]
  · rw [h, State.pc_control, State.countDraw_pc, State.setAc_pc]

theorem State.pc_ioOutputA (s : State) (ac : Ac) (f : Ctl) (d : DevCode) : (s.ioOutputA ac f d).pc = s.pc := by
  rcases s.ioOutputA_cases ac f d with ⟨-, h⟩ | ⟨-, -, h⟩
  · rw [h]
  · rw [h, State.pc_control, State.mapUnit_pc]

theorem State.pc_ioOutputNone (s : State) (f : Ctl) (d : DevCode) : (s.ioOutputNone f d).pc = s.pc := by
  rcases s.ioOutputNone_cases f d with ⟨-, h⟩ | ⟨-, -, h⟩
  · rw [h]
  · rw [h, State.pc_control]

theorem staysInSequence_div (s : State) : StaysInSequence s (execDiv s) := by
  unfold execDiv
  split <;> exact staysInSequence_of_pc_eq rfl

theorem staysInSequence_msko (ac : Ac) (f : Ctl) (s : State) : StaysInSequence s (execMsko ac f s) := by
  unfold execMsko
  split
  · exact staysInSequence_of_pc_eq (State.pc_cpuControl _ f)
  · simp [StaysInSequence]

/-- Settles O21: every instruction but the jumps leaves PC or ends in one skip. -/
theorem onlyJumpsLeaveTheSequence : Obligations.OnlyJumpsLeaveTheSequence := by
  intro i s t hjmp hjsr
  suffices hseq : StaysInSequence s (exec i s) from hseq t
  cases i with
  | com _ | neg _ | mov _ | inc _ | adc _ | sub _ | add _ | and _ => exact staysInSequence_skipIf (by simp) _
  | jmp m => exact absurd rfl (hjmp m)
  | jsr m => exact absurd rfl (hjsr m)
  | isz m | dsz m =>
    simp only [exec_isz, exec_dsz]
    refine staysInSequence_atAddress (fun e t => ?_) m
    exact inSequence_skipIf (t.write_pc e _) _
  | lda _ m | sta _ m =>
    simp only [exec_lda, exec_sta]
    refine staysInSequence_atAddress (fun e t => ?_) m
    exact .inl rfl
  | mul | otherMdv _ _ _ | skpdnCpu _ => exact staysInSequence_of_pc_eq rfl
  | div => exact staysInSequence_div s
  | docMdv _ _ => simp [StaysInSequence, exec, execDocMdv]
  | skpMdv _ _ | skpbnCpu _ | skpbzCpu _ | skpdzCpu _ | skp _ _ _ => exact staysInSequence_skipIf rfl _
  | nioCpu _ f | doaCpu _ f | reads _ f | inta _ f | iorst _ f | halt _ f =>
    exact staysInSequence_of_pc_eq (State.pc_cpuControl _ f)
  | msko ac f => exact staysInSequence_msko ac f s
  | nio ac f d | dia ac f d | dib ac f d | dic ac f d => exact staysInSequence_of_pc_eq (s.pc_ioInput _ ac f d)
  | doa ac f d => exact staysInSequence_of_pc_eq (s.pc_ioOutputA ac f d)
  | dob _ f d | doc _ f d => exact staysInSequence_of_pc_eq (s.pc_ioOutputNone f d)

end Sys2Proof.Machine
end

section
/-! I/O transfers to a device code (R170 to R185): each with a controller at the code and with none, what the control field
does to the controller and its request bit, and that an input is its reply followed by the control field. -/

namespace Sys2Proof.Machine

variable {s : State} {d : DevCode} {c : Controller}

/-! ## The instructions as transfers -/

section
variable (ac : Ac) (f : Ctl) (d : DevCode) (s : State)

theorem exec_nio : exec (.nio ac f d) s = .next (s.ioInput inputNone ac f d) := rfl

theorem exec_dia : exec (.dia ac f d) s = .next (s.ioInput inputA ac f d) := rfl

theorem exec_dib : exec (.dib ac f d) s = .next (s.ioInput inputNone ac f d) := rfl

theorem exec_dic : exec (.dic ac f d) s = .next (s.ioInput inputNone ac f d) := rfl

theorem exec_doa : exec (.doa ac f d) s = .next (s.ioOutputA ac f d) := rfl

theorem exec_dob : exec (.dob ac f d) s = .next (s.ioOutputNone f d) := rfl

theorem exec_doc : exec (.doc ac f d) s = .next (s.ioOutputNone f d) := rfl

theorem exec_skp (t : IoTest) : exec (.skp ac t d) s = .next (s.skipIf (s.ioTest t d)) := rfl

end

/-! ## Transfers to an absent device (R184) -/

section
variable (h : s.dev d = none)
include h

theorem State.ioInput_absent (data : Controller → Option Word) (ac : Ac) (f : Ctl) : s.ioInput data ac f d = s := by
  simp only [State.ioInput, h]

theorem State.ioOutputA_absent (ac : Ac) (f : Ctl) : s.ioOutputA ac f d = s := by
  simp only [State.ioOutputA, h]

theorem State.ioOutputNone_absent (f : Ctl) : s.ioOutputNone f d = s := by
  simp only [State.ioOutputNone, h]

theorem State.ioTest_absent (t : IoTest) : s.ioTest t d = testIdle t := by
  simp only [State.ioTest, h]

theorem exec_skp_absent (ac : Ac) (t : IoTest) : exec (.skp ac t d) s = .next (s.skipIf (testIdle t)) := by
  rw [exec_skp, State.ioTest_absent h]

end

/-- Settles O43: no transfer finds a controller, and SKP answers as for one neither Busy nor Done. -/
theorem absentDeviceIsIgnored : Obligations.AbsentDeviceIsIgnored := by
  intro ac f d s h
  refine ⟨fun i hi => ?_, exec_skp_absent h ac .bn, exec_skp_absent h ac .bz, exec_skp_absent h ac .dn,
    exec_skp_absent h ac .dz⟩
  simp only [List.mem_cons, List.not_mem_nil, or_false] at hi
  rcases hi with rfl | rfl | rfl | rfl | rfl | rfl | rfl
  · rw [exec_nio, State.ioInput_absent h]
  · rw [exec_dia, State.ioInput_absent h]
  · rw [exec_doa, State.ioOutputA_absent h]
  · rw [exec_dib, State.ioInput_absent h]
  · rw [exec_dob, State.ioOutputNone_absent h]
  · rw [exec_dic, State.ioInput_absent h]
  · rw [exec_doc, State.ioOutputNone_absent h]

/-! ## Transfers to an installed controller -/

/-- A skip on a test, by the condition that the test stands for. -/
theorem State.skipIf_of_iff {s : State} {b : Bool} {p : Prop} [Decidable p] (hb : b = true ↔ p) :
    s.skipIf b = { s with pc := if p then s.pc + 1 else s.pc } :=
  congrArg s.setPc (if_congr hb rfl rfl)

section
variable (h : s.dev d = some c)
include h

theorem State.ioInput_installed (data : Controller → Option Word) (ac : Ac) (f : Ctl) :
    s.ioInput data ac f d = (s.takeReply ac (data c)).control f d := by
  simp only [State.ioInput, h]

theorem State.ioOutputNone_installed (f : Ctl) : s.ioOutputNone f d = s.control f d := by
  simp only [State.ioOutputNone, h]

theorem State.ioTest_installed (t : IoTest) : s.ioTest t d = testHolds t c.st := by
  simp only [State.ioTest, h]

theorem exec_doa_installed (ac : Ac) (f : Ctl) :
    exec (.doa ac f d) s = .next ((s.mapUnit d fun u => outputA u (s.ac ac)).control f d) := by
  simp only [exec_doa, State.ioOutputA, h]

theorem exec_dob_installed (ac : Ac) (f : Ctl) : exec (.dob ac f d) s = .next (s.control f d) := by
  rw [exec_dob, State.ioOutputNone_installed h]

theorem exec_doc_installed (ac : Ac) (f : Ctl) : exec (.doc ac f d) s = .next (s.control f d) := by
  rw [exec_doc, State.ioOutputNone_installed h]

/-- SKP to an installed controller skips exactly when the condition that its test stands for holds, and PC alone changes. -/
theorem exec_skp_installed (ac : Ac) {t : IoTest} {p : Prop} [Decidable p] (ht : testHolds t c.st = true ↔ p) :
    exec (.skp ac t d) s = .next { s with pc := if p then s.pc + 1 else s.pc } := by
  rw [exec_skp, State.ioTest_installed h, State.skipIf_of_iff ht]

end

/-- Settles O44, from the condition that each test stands for. -/
theorem skpTestsBusyAndDone : Obligations.SkpTestsBusyAndDone := fun ac _ _ _ h =>
  ⟨exec_skp_installed h ac beq_iff_eq, exec_skp_installed h ac bne_iff_ne, exec_skp_installed h ac beq_iff_eq,
    exec_skp_installed h ac bne_iff_ne⟩

/-! ## The control field (R271 to R273) -/

/-- The state that the control field leaves a controller in, from the state it was in. -/
def controlledSt (f : Ctl) (st : DevState) : DevState :=
  match f with
  | .none => st
  | .start => .busy
  | .clear => .idle
  | .pulse => st

/-- The request bit that the control field leaves, from the bit it was. -/
def controlledReq (f : Ctl) (r : Bool) : Bool :=
  match f with
  | .none => r
  | .start => false
  | .clear => false
  | .pulse => r

theorem State.dev_control_same (h : s.dev d = some c) (f : Ctl) :
    (s.control f d).dev d = some { c with st := controlledSt f c.st } := by
  cases f with
  | none | pulse => exact h
  | start | clear => simp [State.control, State.startDev, State.clearDev, controlledSt, h]

theorem State.req_control_same (s : State) (f : Ctl) (d : DevCode) :
    (s.control f d).req.getLsbD d.toNat = controlledReq f (s.req.getLsbD d.toNat) := by
  cases f with
  | none | pulse => rfl
  | start | clear => exact (State.req_clearReq _ d d).trans (by simp [controlledReq])

/-- The control field leaves every other controller and every other request bit. -/
theorem State.control_other (s : State) (f : Ctl) {d d' : DevCode} (hne : d' ≠ d) :
    (s.control f d).dev d' = s.dev d' ∧ (s.control f d).req.getLsbD d'.toNat = s.req.getLsbD d'.toNat := by
  rcases s.control_cases f d with h | ⟨st, -, h⟩
  · exact ⟨by rw [h], by rw [h]⟩
  · rw [h, State.dev_clearReq, State.dev_setDevState, State.req_clearReq, State.setDevState_req]
    simp [hne]

/-- Settles O39: DOB and DOC are the control field alone. -/
theorem controlFieldStartsAndClears : Obligations.ControlFieldStartsAndClears := by
  intro ac d c s h
  refine ⟨exec_dob_installed h ac .none, exec_doc_installed h ac .none, exec_dob_installed h ac .pulse,
    exec_doc_installed h ac .pulse, fun f st hf => ?_⟩
  have heffect : controlledSt f c.st = st ∧ controlledReq f (s.req.getLsbD d.toNat) = false := by
    simp only [List.mem_cons, Prod.mk.injEq, List.not_mem_nil, or_false] at hf
    rcases hf with ⟨rfl, rfl⟩ | ⟨rfl, rfl⟩ <;> exact ⟨rfl, rfl⟩
  obtain ⟨hst, hreq⟩ := heffect
  exact ⟨s.control f d, exec_dob_installed h ac f, exec_doc_installed h ac f, s.control_frame f d,
    hst ▸ State.dev_control_same h f, (s.req_control_same f d).trans hreq, fun _ hne => s.control_other f hne⟩

/-- Settles O42: the data is latched first, and the control field acts on the controller with the new data. -/
theorem doaLatchesTheOutputWord : Obligations.DoaLatchesTheOutputWord := by
  intro ac f d c s h
  have hlatched := s.dev_mapUnit d d fun u => outputA u (s.ac ac)
  rw [if_pos rfl, h] at hlatched
  refine ⟨_, exec_doa_installed h ac f, State.control_frame _ f d, State.dev_control_same hlatched f,
    State.req_control_same _ f d, fun d' hne => ?_⟩
  obtain ⟨hdev, hreq⟩ := State.control_other (s.mapUnit d fun u => outputA u (s.ac ac)) f hne
  exact ⟨hdev.trans ((s.dev_mapUnit d d' _).trans (if_neg hne)), hreq⟩

/-! ## Inputs -/

@[simp] theorem State.dev_takeReply (s : State) (ac : Ac) (reply : Option Word) (d : DevCode) :
    (s.takeReply ac reply).dev d = s.dev d := by
  cases reply <;> rfl

/-- An input transfer to an installed controller is its reply and then DOB with the same control field (R172). -/
theorem exec_dob_takeReply (h : s.dev d = some c) (data : Controller → Option Word) (ac : Ac) (f : Ctl) :
    exec (.dob ac f d) (s.takeReply ac (data c)) = .next (s.ioInput data ac f d) := by
  have hdev : (s.takeReply ac (data c)).dev d = some c := (s.dev_takeReply ac (data c) d).trans h
  rw [exec_dob_installed hdev, State.ioInput_installed h]

theorem inputA_of_reader {w : Word} {attached : Bool} (h : c.unit = .reader w attached) : inputA c = some w := by
  simp only [inputA, h]

theorem inputA_of_not_reader (h : ∀ w attached, c.unit ≠ .reader w attached) : inputA c = none := by
  cases hu : c.unit with
  | reader w attached => exact absurd hu (h w attached)
  | writer _ _ _ | rtc _ => simp only [inputA, hu]

/-- Settles O40: the reply of each of the three is a free value. -/
theorem inputsWithoutDataTakeAFreeValue : Obligations.InputsWithoutDataTakeAFreeValue := fun ac f d _ s h =>
  ⟨s.ioInput inputNone ac f d, exec_dob_takeReply h inputNone ac f, exec_nio ac f d s, exec_dib ac f d s,
    exec_dic ac f d s⟩

/-- Settles O41: the reply is the input word where there is one. -/
theorem diaReadsTheInputWord : Obligations.DiaReadsTheInputWord := by
  intro ac f d c s h
  have hdob := exec_dob_takeReply h inputA ac f
  refine ⟨fun w attached hu => ?_, fun hu => ?_⟩
  · rw [inputA_of_reader hu] at hdob
    exact ⟨_, hdob, exec_dia ac f d s⟩
  · rw [inputA_of_not_reader hu] at hdob
    exact ⟨_, hdob, exec_dia ac f d s⟩

end Sys2Proof.Machine
end

section
/-! The CPU pseudo-device, code 0o77 (R200 to R213): its control field, and for each of its instructions the data operation
that comes before the control field (R211). -/

namespace Sys2Proof.Machine

/-! ## The instructions as data operation and control field -/

section
variable (ac : Ac) (f : Ctl) (s : State)

theorem exec_nioCpu : exec (.nioCpu ac f) s = .next (s.cpuControl f) := rfl

theorem exec_doaCpu : exec (.doaCpu ac f) s = .next (s.cpuControl f) := rfl

theorem exec_reads : exec (.reads ac f) s = .next ((s.setAc ac s.sr).cpuControl f) := rfl

theorem exec_inta : exec (.inta ac f) s = .next ((s.setAc ac (lowestCode s.honoured)).cpuControl f) := rfl

theorem exec_iorst : exec (.iorst ac f) s = .next (s.resetIo.cpuControl f) := rfl

theorem exec_halt : exec (.halt ac f) s = .next (s.cpuControl f).haltRun := rfl

theorem exec_skpbnCpu : exec (.skpbnCpu ac) s = .next (s.skipIf s.ion) := rfl

theorem exec_skpbzCpu : exec (.skpbzCpu ac) s = .next (s.skipIf (!s.ion)) := rfl

theorem exec_skpdnCpu : exec (.skpdnCpu ac) s = .next s := rfl

theorem exec_skpdzCpu : exec (.skpdzCpu ac) s = .next (s.skipIf true) := rfl

theorem exec_msko_of_nodup (h : (s.devices.map fun c => c.priority).Nodup) :
    exec (.msko ac f) s = .next (State.cpuControl { s with dis := maskSet s.cfg (s.ac ac) s.devices } f) :=
  if_pos (decide_eq_true h)

theorem exec_msko_of_collision (h : ¬ (s.devices.map fun c => c.priority).Nodup) :
    exec (.msko ac f) s = .refused .priorityCollision :=
  if_neg (by simpa [prioritiesDistinct] using h)

end

/-! ## The control field (R207, R208, R213) -/

theorem State.cpuControl_start (s : State) :
    s.cpuControl .start = { s with ionp := if s.ion = false then true else s.ionp } := by
  rw [State.cpuControl_eq]
  simp

theorem State.cpuControl_clear (s : State) : s.cpuControl .clear = { s with ion := false, ionp := false } := rfl

/-- Settles O46: both instructions are the control field alone. -/
theorem cpuControlField : Obligations.CpuControlField := by
  intro ac s i hi
  have hexec (f : Ctl) : exec (i f) s = .next (s.cpuControl f) := by
    rcases hi with rfl | rfl
    · exact exec_nioCpu ac f s
    · exact exec_doaCpu ac f s
  refine ⟨hexec .none, hexec .pulse, ?_, ?_⟩
  · rw [hexec, State.cpuControl_start]
  · rw [hexec, State.cpuControl_clear]

/-! ## READS and INTA -/

/-- Settles O47: the data operation writes the accumulator, and then the control field acts. -/
theorem readsCopiesTheSwitches : Obligations.ReadsCopiesTheSwitches := fun ac f s =>
  ⟨(s.setAc ac s.sr).cpuControl f, exec_nioCpu ac f (s.setAc ac s.sr), exec_reads ac f s⟩

/-- A request is honoured when its code is not disabled (R256). -/
theorem State.getLsbD_honoured (s : State) (d : DevCode) :
    s.honoured.getLsbD d.toNat = (s.req.getLsbD d.toNat && !s.dis.getLsbD d.toNat) := by
  have hd : d.toNat < 64 := d.isLt
  simp [State.honoured, hd]

theorem lowestCode_of_none {e : DevSet} (h : ∀ d : DevCode, e.getLsbD d.toNat = false) : lowestCode e = 0 := by
  rcases lowestCode_cases e with ⟨-, hzero⟩ | ⟨d, hd, -, -⟩
  · exact hzero
  · simp [h d] at hd

/-- The least code of a set is the only one that is in it with no lower one in it. -/
theorem lowestCode_of_least {e : DevSet} {d : DevCode} (hd : e.getLsbD d.toNat = true)
    (hleast : ∀ d' : DevCode, d'.toNat < d.toNat → e.getLsbD d'.toNat = false) : lowestCode e = d.setWidth 16 := by
  rcases lowestCode_cases e with ⟨rfl, -⟩ | ⟨d₀, hd₀, hleast₀, hcode⟩
  · simp at hd
  · have hle : ¬ d.toNat < d₀.toNat := fun hlt => by simp [hleast₀ d hlt] at hd
    have hge : ¬ d₀.toNat < d.toNat := fun hlt => by simp [hleast d₀ hlt] at hd₀
    have heq : d₀ = d := BitVec.eq_of_toNat_eq (by omega)
    rw [hcode, heq]

/-- Settles O48: the word that INTA answers is the least code of the honoured set. -/
theorem intaAnswersTheLowestHonouredCode : Obligations.IntaAnswersTheLowestHonouredCode := by
  intro ac f s
  refine ⟨_, lowestCode s.honoured, exec_nioCpu ac f (s.setAc ac (lowestCode s.honoured)), exec_inta ac f s,
    fun hnone => ?_, fun d hreq hdis hleast => ?_⟩
  · exact lowestCode_of_none fun d => (s.getLsbD_honoured d).trans (hnone d)
  · have hd : s.honoured.getLsbD d.toNat = true := by rw [State.getLsbD_honoured, hreq, hdis]; rfl
    rw [lowestCode_of_least hd fun d' hlt => (s.getLsbD_honoured d').trans (hleast d' hlt)]
    exact BitVec.toNat_setWidth_of_le (by decide)

/-! ## MSKO -/

/-- Settles O49: the new disable set is `maskSet`, whatever DIS was. -/
theorem mskoReplacesTheDisableSet : Obligations.MskoReplacesTheDisableSet := by
  intro ac f s
  refine ⟨fun hdistinct => ?_, exec_msko_of_collision ac f s⟩
  refine ⟨_, maskSet s.cfg (s.ac ac) s.devices, exec_nioCpu ac f _, exec_msko_of_nodup ac f s hdistinct, fun d => ?_⟩
  rw [getLsbD_maskSet]
  simp [maskedBy]

/-! ## IORST -/

/-- The control field finds ION off after the reset, so S sets ION-pending. -/
theorem State.cpuControl_resetIo (s : State) (f : Ctl) :
    s.resetIo.cpuControl f = { s.resetIo with ionp := decide (f = .start) } := by
  cases f <;> rfl

/-- Settles O50, from the state that the reset leaves. -/
theorem iorstResetsDevicesAndInterrupts : Obligations.IorstResetsDevicesAndInterrupts := by
  intro ac f s
  refine ⟨_, exec_iorst ac f s, ?_, fun d => ?_⟩
  · rw [State.cpuControl_resetIo]
    cases f <;> rfl
  · rw [State.cpuControl_resetIo]
    exact s.dev_resetIo d

/-! ## HALT -/

/-- Settles O51: the core stops in the state that the control field leaves. -/
theorem haltStopsTheCore : Obligations.HaltStopsTheCore := fun ac f s =>
  ⟨s.cpuControl f, exec_nioCpu ac f s, exec_halt ac f s⟩

/-- With no other turn due, a running core's step is an instruction step with no completion in it. -/
theorem step_of_running {s : State} (hrun : s.run = .running) (hagenda : s.agenda = []) : step s = s.instrStep [] := by
  simp only [step, hagenda, State.coreTurn_running hrun]

/-- The instruction step of a HALT ends with its execute phase: neither completions nor the interrupt check follow. -/
theorem State.instrStep_halt {s : State} {ac : Ac} {f : Ctl} (h : s.fetched = .halt ac f) (mid : List Completion) :
    s.instrStep mid = .next (s.begun.cpuControl f).haltRun := by
  rw [State.instrStep, h, exec_halt]
  rfl

/-- Settles O52: the state after HALT is that of the fetch, stopped. -/
theorem haltTakesNoInterrupt : Obligations.HaltTakesNoInterrupt := by
  intro s ac hrun hagenda hfetched
  rw [step_of_running hrun hagenda, State.instrStep_halt hfetched]
  rfl

/-! ## SKP on device 0o77 -/

/-- Settles O53, from the condition that each test stands for. -/
theorem skpCpuTestsIon : Obligations.SkpCpuTestsIon := by
  intro ac s
  refine ⟨?_, ?_, exec_skpdnCpu ac s, exec_skpdzCpu ac s⟩
  · rw [exec_skpbnCpu, State.skipIf_of_iff Iff.rfl]
  · rw [exec_skpbzCpu, State.skipIf_of_iff (Bool.not_eq_true' s.ion).to_iff]

end Sys2Proof.Machine
end

section
/-! The multiply/divide unit, code 0o01 (R230 to R237). MUL and DIV each answer the numbers that one identity between
naturals determines, so that DIV after MUL is read off the identity of MUL. -/

namespace Sys2Proof.Machine

section
variable (ac : Ac) (s : State)

theorem exec_skpMdv (t : IoTest) : exec (.skpMdv ac t) s = .next (s.skipIf (testIdle t)) := rfl

theorem exec_otherMdv (op : IoOp) (f : Ctl) : exec (.otherMdv ac op f) s = .next s := rfl

theorem exec_docMdv (pulse : Bool) : exec (.docMdv ac pulse) s = .refused .mdvAccumulatorField := rfl

end

/-! ## MUL (R232) -/

/-- The number that MUL stores in AC0 and AC1. -/
def Accs.mulAdd (a : Accs) : Nat := a.ac1.toNat * a.ac2.toNat + a.ac0.toNat

theorem exec_mul (s : State) :
    exec .mul s = .next { s with acs := { s.acs with
      ac0 := BitVec.ofNat 16 (s.acs.mulAdd / 65536), ac1 := BitVec.ofNat 16 s.acs.mulAdd } } := rfl

/-- The multiply and add does not overflow: 0xFFFF * 0xFFFF + 0xFFFF is 0xFFFF0000. -/
theorem Accs.mulAdd_lt (a : Accs) : a.mulAdd < 65536 * 65536 := by
  have h0 : a.ac0.toNat < 65536 := a.ac0.isLt
  have hmul : a.ac1.toNat * a.ac2.toNat ≤ 65535 * 65535 :=
    Nat.mul_le_mul (Nat.le_of_lt_succ a.ac1.isLt) (Nat.le_of_lt_succ a.ac2.isLt)
  unfold Accs.mulAdd
  omega

/-- A number below 2^32 is its high and low halves. -/
theorem toNat_halves {n : Nat} (h : n < 65536 * 65536) :
    65536 * (BitVec.ofNat 16 (n / 65536)).toNat + (BitVec.ofNat 16 n).toNat = n := by
  simp only [BitVec.toNat_ofNat]
  omega

/-- Settles O54: the sum has two halves, and MUL stores them. -/
theorem mulIsUnsignedMultiplyAdd : Obligations.MulIsUnsignedMultiplyAdd := fun s =>
  ⟨_, _, exec_mul s, toNat_halves s.acs.mulAdd_lt⟩

/-! ## DIV (R233) -/

/-- The number that DIV divides: AC0 and AC1 as its high and low halves. -/
def Accs.dividend (a : Accs) : Nat := 65536 * a.ac0.toNat + a.ac1.toNat

theorem exec_div_of_le {s : State} (h : s.acs.ac2.toNat ≤ s.acs.ac0.toNat) :
    exec .div s = .next { s with carry := true } :=
  if_pos h

theorem exec_div_of_lt {s : State} (h : s.acs.ac0.toNat < s.acs.ac2.toNat) :
    exec .div s = .next { s with
      acs := { s.acs with
        ac0 := BitVec.ofNat 16 (s.acs.dividend % s.acs.ac2.toNat),
        ac1 := BitVec.ofNat 16 (s.acs.dividend / s.acs.ac2.toNat) },
      carry := false } := by
  rw [Accs.dividend, Nat.mul_comm]
  exact if_neg (Nat.not_le.2 h)

/-- Without overflow the quotient fits in a word. -/
theorem Accs.dividend_div_lt {a : Accs} (h : a.ac0.toNat < a.ac2.toNat) : a.dividend / a.ac2.toNat < 65536 := by
  have h1 : a.ac1.toNat < 65536 := a.ac1.isLt
  refine Nat.div_lt_of_lt_mul ?_
  unfold Accs.dividend
  omega

/-- Settles O55: quotient and remainder both fit in a word, so that storing them loses nothing. -/
theorem divIsUnsignedDivide : Obligations.DivIsUnsignedDivide := by
  refine fun s => ⟨exec_div_of_le, fun h => ⟨_, _, exec_div_of_lt h, ?_⟩⟩
  have hdivisor : s.acs.ac2.toNat < 65536 := s.acs.ac2.isLt
  have hrem : s.acs.dividend % s.acs.ac2.toNat < s.acs.ac2.toNat := Nat.mod_lt _ (Nat.zero_lt_of_lt h)
  rw [BitVec.toNat_ofNat, BitVec.toNat_ofNat, Nat.mod_eq_of_lt (Accs.dividend_div_lt h),
    Nat.mod_eq_of_lt (hrem.trans hdivisor)]
  exact ⟨(Nat.div_add_mod' s.acs.dividend _).symm, hrem⟩

/-- The division identity with a remainder below the divisor determines what DIV answers, and rules the overflow out. -/
theorem exec_div_of_identity {s : State} {q r : Word}
    (h : 65536 * s.acs.ac0.toNat + s.acs.ac1.toNat = q.toNat * s.acs.ac2.toNat + r.toNat)
    (hr : r.toNat < s.acs.ac2.toNat) :
    exec .div s = .next { s with acs := { s.acs with ac0 := r, ac1 := q }, carry := false } := by
  have hproduct : q.toNat * s.acs.ac2.toNat ≤ 65535 * s.acs.ac2.toNat :=
    Nat.mul_le_mul_right _ (Nat.le_of_lt_succ q.isLt)
  have hlt : s.acs.ac0.toNat < s.acs.ac2.toNat := by omega
  have hdividend : r.toNat + s.acs.ac2.toNat * q.toNat = s.acs.dividend := by
    rw [Accs.dividend, h, Nat.mul_comm, Nat.add_comm]
  obtain ⟨hquot, hrem⟩ := (Nat.div_mod_unique (Nat.zero_lt_of_lt hr)).2 ⟨hdividend, hr⟩
  rw [exec_div_of_lt hlt, hquot, hrem, BitVec.ofNat_toNat, BitVec.ofNat_toNat, BitVec.setWidth_eq, BitVec.setWidth_eq]

/-- Settles O56: the identity of MUL is the division identity, with AC1 for the quotient and AC0, which is 0, for the
remainder. -/
theorem mulThenDivRestores : Obligations.MulThenDivRestores := by
  intro s h0 h2
  obtain ⟨hi, lo, hmul, hidentity⟩ := mulIsUnsignedMultiplyAdd s
  have hrem : s.acs.ac0.toNat < s.acs.ac2.toNat := by
    rw [h0]
    exact Nat.pos_of_ne_zero fun h => h2 (BitVec.eq_of_toNat_eq h)
  exact ⟨_, hmul, exec_div_of_identity hidentity hrem⟩

/-! ## The other words to the unit (R234 to R236) -/

/-- Settles O57: the unit is never Busy and never Done, and the words of the row `other MDV` leave the state. -/
theorem otherMdvWordsDoNothing : Obligations.OtherMdvWordsDoNothing := fun ac op f s =>
  ⟨exec_skpMdv ac s .bn, exec_skpMdv ac s .dn, exec_skpMdv ac s .bz, exec_skpMdv ac s .dz, exec_otherMdv ac s op f⟩

/-- Settles O58: the decoder gives `docMdv` for the fields other than 2 alone, so that `exec` refuses it for every field. -/
theorem mdvWithOtherAccumulatorIsRefused : Obligations.MdvWithOtherAccumulatorIsRefused := fun ac pulse s _ =>
  exec_docMdv ac s pulse

end Sys2Proof.Machine
end

section
/-! The instruction step (R250 to R252): the core's turn is `exec` of the fetched instruction, then the end of the
step. -/

namespace Sys2Proof.Machine

/-- While running, the core's turn on the agenda is an instruction step with the completions that the turn names. -/
theorem step_of_coreTurn {s : State} {mid : List Completion} {rest : List Turn} (hrun : s.run = .running)
    (hagenda : s.agenda = .core mid :: rest) : step s = State.instrStep { s with agenda := rest } mid := by
  simp only [step, hagenda]
  exact State.coreTurn_running (s := { s with agenda := rest }) hrun mid

theorem State.instrStep_of_fetched {s : State} {i : Instr} (h : s.fetched = i) (mid : List Completion) :
    s.instrStep mid = finishResult (exec i s.begun) mid := by
  rw [State.instrStep, h]

/-- Completions and the interrupt check follow an instruction that left the core running (R250). -/
theorem State.finish_of_running {t : State} (h : t.run = .running) (mid : List Completion) :
    t.finish mid = (t.ticks mid).interruptCheck := by
  rcases t.finish_cases mid with ⟨-, hf⟩ | ⟨hstopped, -⟩
  · exact hf
  · simp [h] at hstopped

/-- A step ends with the instruction that stopped the core (R206, R147). -/
theorem State.finish_of_stopped {t : State} (h : t.run = .stopped) (mid : List Completion) :
    t.finish mid = .next t := by
  rcases t.finish_cases mid with ⟨hrunning, -⟩ | ⟨-, hf⟩
  · simp [h] at hrunning
  · exact hf

/-- Settles O6, from the two forms of the core's turn and the two ends of a step. -/
theorem stepRunsDecodedInstruction : Obligations.StepRunsDecodedInstruction := by
  intro s i mid rest hrun hdecode
  refine ⟨fun hagenda => ?_, fun hagenda => ?_, fun t ht => t.finish_of_running ht mid,
    fun t ht => t.finish_of_stopped ht mid⟩
  · rw [step_of_running hrun hagenda]
    exact State.instrStep_of_fetched hdecode []
  · rw [step_of_coreTurn hrun hagenda]
    exact State.instrStep_of_fetched (s := { s with agenda := rest }) hdecode mid

/-- With no other turn due, the step of an instruction that leaves the core running ends in the interrupt check. -/
theorem step_of_exec {s t : State} {i : Instr} (hrun : s.run = .running) (hagenda : s.agenda = [])
    (hfetched : s.fetched = i) (hexec : exec i s.begun = .next t) (ht : t.run = .running) :
    step s = t.interruptCheck := by
  rw [step_of_running hrun hagenda, State.instrStep_of_fetched hfetched, hexec]
  exact State.finish_of_running ht []

end Sys2Proof.Machine
end

section
/-! Completion ticks (R270, R274, R278): what a tick leaves of the controller it is for, and that it leaves everything
else. -/

namespace Sys2Proof.Machine

variable {s : State} {d : DevCode} {c : Controller} {ans : StreamAnswer}

theorem State.tick_of_absent (h : s.dev d = none) (ans : StreamAnswer) : s.tick ⟨d, ans⟩ = s := by
  simp only [State.tick, h]

theorem State.tick_of_not_busy (h : s.dev d = some c) (hst : c.st ≠ .busy) (ans : StreamAnswer) :
    s.tick ⟨d, ans⟩ = s := by
  simp only [State.tick, h, if_neg hst]

/-- A stream error takes a Busy controller to Idle and drops its request (R278). -/
theorem State.tick_of_error (h : s.dev d = some c) (hst : c.st = .busy) (hfail : c.unit.failsOn ans = true) :
    s.tick ⟨d, ans⟩ = (s.setDevState d .idle).clearReq d := by
  simp only [State.tick, h, if_pos hst, if_pos hfail, State.clearDev]

/-- Without an error a Busy controller acts, is Done and requests (R274). -/
theorem State.tick_of_success (h : s.dev d = some c) (hst : c.st = .busy) (hfail : c.unit.failsOn ans = false) :
    s.tick ⟨d, ans⟩ = ((s.mapUnit d fun u => u.act ans).setDevState d .done).setReq d := by
  simp only [State.tick, h, if_pos hst, hfail, Bool.false_eq_true, if_false]

/-- The controller that the tick of a Busy one leaves. -/
def Controller.ticked (c : Controller) (ans : StreamAnswer) : Controller :=
  if c.unit.failsOn ans then { c with st := .idle } else { c with st := .done, unit := c.unit.act ans }

/-- The tick of a Busy controller leaves it `ticked`, and its request bit says whether it is Done (R35). -/
theorem State.tick_same (h : s.dev d = some c) (hst : c.st = .busy) (ans : StreamAnswer) :
    (s.tick ⟨d, ans⟩).dev d = some (c.ticked ans) ∧
    ((s.tick ⟨d, ans⟩).req.getLsbD d.toNat = true ↔ (c.ticked ans).st = .done) := by
  cases hfail : c.unit.failsOn ans with
  | true =>
    rw [State.tick_of_error h hst hfail, State.req_clearReq]
    simp [Controller.ticked, hfail, h]
  | false =>
    rw [State.tick_of_success h hst hfail, State.req_setReq]
    simp [Controller.ticked, hfail, h]

/-- A tick reaches the controllers and REQ alone. -/
theorem State.tick_frame (s : State) (t : Completion) :
    s.tick t = { s with devices := (s.tick t).devices, req := (s.tick t).req } := by
  rcases s.tick_cases t with ⟨h, -⟩ | ⟨-, -, -, ⟨-, h⟩ | ⟨-, h⟩⟩ <;> rw [h] <;> rfl

/-- A tick leaves every other controller and every other request bit. -/
theorem State.tick_other (s : State) (ans : StreamAnswer) {d d' : DevCode} (hne : d' ≠ d) :
    (s.tick ⟨d, ans⟩).dev d' = s.dev d' ∧ (s.tick ⟨d, ans⟩).req.getLsbD d'.toNat = s.req.getLsbD d'.toNat := by
  rcases s.tick_cases ⟨d, ans⟩ with ⟨h, -⟩ | ⟨-, -, -, ⟨-, h⟩ | ⟨-, h⟩⟩
  · rw [h]
    exact ⟨rfl, rfl⟩
  · rw [h, State.req_clearReq]
    simp [hne]
  · rw [h, State.req_setReq]
    simp [hne]

/-- Settles O45: the controller `ticked` is the one tabled for its kind, its stream and the stream's answer. -/
theorem completionMakesDoneAndRequests : Obligations.CompletionMakesDoneAndRequests := by
  refine fun s d ans => ⟨fun h => State.tick_of_absent h ans, fun c h hst => State.tick_of_not_busy h hst ans,
    fun c h hst => ?_⟩
  obtain ⟨hdev, hreq⟩ := State.tick_same h hst ans
  refine ⟨_, c.ticked ans, rfl, s.tick_frame ⟨d, ans⟩, hdev, ?_, hreq, fun _ hne => s.tick_other ans hne⟩
  obtain ⟨code, priority, st, unit⟩ := c
  cases unit with
  | reader _ attached => cases attached <;> cases ans <;> rfl
  | writer _ attached _ => cases attached <;> cases ans <;> rfl
  | rtc _ => rfl

end Sys2Proof.Machine
end

section
/-! The interrupt check and sequence (R256, R261 to R264): PC goes to cell 0, and the chain from cell 1 names the
handler. `State.handlerChain` is that chain; how it comes out decides what the check does. -/

namespace Sys2Proof.Machine

/-! ## Chains of one and two hops -/

/-- The last hop of a chain, in a cell that is not auto-indexed, writes nothing (R143). -/
theorem chase_of_last_plain {m : Memory} {a : Addr} (hplain : a.toNat < 0o20 ∨ 0o37 < a.toNat)
    (hlast : (m.readWord a).getLsbD 15 = false) (n : Nat) : chase (n + 1) m a = .ends (maskAddr (m.readWord a)) m := by
  obtain ⟨hword, hmem⟩ := hop_plain m (m.readWord a) hplain
  rw [chase_of_last hlast, hword, hmem]

/-- A hop that goes on from a cell that is not auto-indexed writes nothing (R144). -/
theorem chase_of_more_plain {m : Memory} {a : Addr} (hplain : a.toNat < 0o20 ∨ 0o37 < a.toNat)
    (hmore : (m.readWord a).getLsbD 15 = true) (n : Nat) : chase (n + 1) m a = chase n m (maskAddr (m.readWord a)) := by
  obtain ⟨hword, hmem⟩ := hop_plain m (m.readWord a) hplain
  rw [chase_of_more hmore, hword, hmem]

/-- Whatever the range of its cell, a hop leaves in it the word that it uses, and every other byte (R145, R57). -/
theorem changesWord_hopMemory {m : Memory} (hw : m.wf = true) (a : Addr) :
    ChangesWord m a (hopWord a (m.readWord a)) (hopMemory m a (m.readWord a)) := by
  by_cases hplain : a.toNat < 0o20 ∨ 0o37 < a.toNat
  · obtain ⟨hword, hmem⟩ := hop_plain m (m.readWord a) hplain
    rw [hword, hmem]
    exact ⟨rfl, fun _ _ _ => rfl⟩
  · have hwrites : hopMemory m a (m.readWord a) = m.writeWord a (hopWord a (m.readWord a)) := by
      refine if_pos ?_
      simp only [isAutoInc, isAutoDec, Bool.or_eq_true, decide_eq_true_eq]
      omega
    rw [hwrites]
    exact changesWord_writeWord hw a _

/-- The word that a hop uses, by the range of its cell (R145). -/
theorem hopWord_eq (a : Addr) (w : Word) :
    hopWord a w = if 0o20 ≤ a.toNat ∧ a.toNat ≤ 0o27 then w + 1
      else if 0o30 ≤ a.toNat ∧ a.toNat ≤ 0o37 then w - 1 else w := by
  simp only [hopWord, isAutoInc, isAutoDec, decide_eq_true_eq]

/-- With HOP_CAP neither 0 nor 1 a chain may make two hops. -/
theorem hopLimit_succ_succ {cfg : Config} (h0 : cfg.hopCap ≠ some 0) (h1 : cfg.hopCap ≠ some 1) :
    ∃ n, hopLimit cfg = n + 2 := by
  have hpow (k : Nat) (hk : k ≠ 0) : ∃ n, 2 ^ k = n + 2 := Nat.exists_eq_add_of_le' (Nat.le_self_pow hk 2)
  unfold hopLimit
  cases hc : cfg.hopCap with
  | none => exact hpow 271 (by decide)
  | some n =>
    obtain _ | _ | k := n
    · exact absurd hc h0
    · exact absurd hc h1
    · exact ⟨k, rfl⟩

/-! ## The check -/

theorem State.interruptCheck_taken {s : State} (hion : s.ion = true) (hreq : s.honoured ≠ 0#64) :
    s.interruptCheck = s.interruptSequence :=
  if_pos ⟨hion, hreq⟩

/-- Settles O11: the check takes the interrupt with ION on and an honoured request alone. -/
theorem noInterruptUnlessEnabledAndHonoured : Obligations.NoInterruptUnlessEnabledAndHonoured := by
  intro s h
  rcases s.interruptCheck_cases with ⟨hnext, -⟩ | ⟨-, hion, hreq⟩
  · exact hnext
  · rcases h with hoff | hnone
    · simp [hoff] at hion
    · exact absurd hnone hreq

/-! ## The sequence -/

/-- Memory with PC saved in cell 0 (R262). -/
def State.pcSaved (s : State) : Memory := s.mem.writeWord 0 (zext s.pc)

/-- The chain from cell 1 with PC saved, which names the handler (R262). -/
def State.handlerChain (s : State) : Chain := (s.write 0 (zext s.pc)).followChain 1

theorem State.handlerChain_eq (s : State) : s.handlerChain = chase (hopLimit s.cfg) s.pcSaved 1 := rfl

theorem State.interruptSequence_eq (s : State) : s.interruptSequence =
    (State.write { s with ion := false } 0 (zext s.pc)).afterChain s.handlerChain fun e t => t.setPc e := rfl

theorem State.interruptSequence_ends {s : State} {e : Addr} {m : Memory} (h : s.handlerChain = .ends e m) :
    s.interruptSequence = .next { s with ion := false, pc := e, mem := m } := by
  rw [State.interruptSequence_eq, h]
  rfl

theorem State.interruptSequence_loops {s : State} {m : Memory} (h : s.handlerChain = .loops m) :
    s.interruptSequence = State.indirectLoop { s with ion := false, mem := m } := by
  rw [State.interruptSequence_eq, h]
  rfl

/-- The sequence with HOP_CAP finite and no handler: the IndirectLoop stop with ION off (R254). -/
theorem State.interruptSequence_stops {s : State} {m : Memory} (h : s.handlerChain = .loops m)
    (hcap : s.cfg.hopCap ≠ none) :
    s.interruptSequence = .next { s with ion := false, mem := m, latch := .indirectLoop, run := .stopped } := by
  rw [State.interruptSequence_loops h]
  exact State.indirectLoop_of_finite (s := { s with ion := false, mem := m }) hcap

section
variable {s : State} (hw : s.mem.wf = true)
include hw

theorem State.wf_pcSaved : s.pcSaved.wf = true := Memory.wf_writeWord hw 0 _

theorem State.changesWord_pcSaved : ChangesWord s.mem 0 (zext s.pc) s.pcSaved := changesWord_writeWord hw 0 _

theorem State.readWord_pcSaved {a : Addr} (ha : a ≠ 0) : s.pcSaved.readWord a = s.mem.readWord a :=
  Memory.readWord_writeWord_ne hw ha _

/-- However the handler's chain comes out, cell 0 holds PC, and outside it the auto-index cells alone can have changed
(R145, R263). -/
theorem State.handlerChain_memory :
    s.handlerChain.memory.readWord 0 = zext s.pc ∧
    ∀ k, k ≠ 0 → k ≠ 1 → k < 32 ∨ 64 ≤ k → s.handlerChain.memory.readByte k = s.mem.readByte k := by
  obtain ⟨hpc, hframe⟩ := State.changesWord_pcSaved hw
  have hchain (k : Nat) (hk : k < 32 ∨ 64 ≤ k) : s.handlerChain.memory.readByte k = s.pcSaved.readByte k :=
    readByte_chase (State.wf_pcSaved hw) _ _ hk
  refine ⟨?_, fun k h0 h1 hk => (hchain k hk).trans (hframe k h0 h1)⟩
  rw [Memory.readWord, hchain _ (by decide), hchain _ (by decide)]
  exact hpc

/-- M[1] with bit 15 clear is the handler's address (R262). -/
theorem State.handlerChain_direct (hcap : s.cfg.hopCap ≠ some 0) (h : (s.mem.readWord 1).getLsbD 15 = false) :
    s.handlerChain = .ends (maskAddr (s.mem.readWord 1)) s.pcSaved := by
  obtain ⟨n, hn⟩ := hopLimit_succ hcap
  have hone : s.pcSaved.readWord 1 = s.mem.readWord 1 := State.readWord_pcSaved hw (by decide)
  rw [← hone] at h ⊢
  rw [State.handlerChain_eq, hn, chase_of_last_plain (by decide) h]

/-- M[1] with bit 15 set names the cell whose word, with bit 15 clear, is the handler's address (R144, R145). -/
theorem State.handlerChain_twoHops (hcap0 : s.cfg.hopCap ≠ some 0) (hcap1 : s.cfg.hopCap ≠ some 1)
    (hmore : (s.mem.readWord 1).getLsbD 15 = true) {a : Addr} (ha : maskAddr (s.mem.readWord 1) = a)
    (ha0 : a ≠ 0) (hlast : (s.mem.readWord a).getLsbD 15 = false) :
    s.handlerChain = .ends (maskAddr (hopWord a (s.mem.readWord a))) (hopMemory s.pcSaved a (s.mem.readWord a)) := by
  obtain ⟨n, hn⟩ := hopLimit_succ_succ hcap0 hcap1
  have hone : s.pcSaved.readWord 1 = s.mem.readWord 1 := State.readWord_pcSaved hw (by decide)
  have hcell : s.pcSaved.readWord a = s.mem.readWord a := State.readWord_pcSaved hw ha0
  rw [← hone] at hmore ha
  rw [← hcell] at hlast ⊢
  rw [State.handlerChain_eq, hn, chase_of_more_plain (by decide) hmore, ha, chase_of_last hlast]

/-- M[1] = 0x8001 is a chain through cell 1 without end (R147). -/
theorem State.handlerChain_self (h : s.mem.readWord 1 = 0x8001#16) : s.handlerChain = .loops s.pcSaved := by
  have hlink : s.pcSaved.readWord 1 = 0x8000#16 ||| zext 1 := (State.readWord_pcSaved hw (by decide)).trans h
  exact chase_along (cell := fun _ => 1) (fun _ _ => .inl (by decide)) (fun _ _ => hlink) 0

/-- The handler that M[1] names directly is entered with cell 0 alone written (R262, R263). -/
theorem State.interruptCheck_direct (hion : s.ion = true) (hreq : s.honoured ≠ 0#64) (hcap : s.cfg.hopCap ≠ some 0)
    (h : (s.mem.readWord 1).getLsbD 15 = false) :
    s.interruptCheck = .next { s with ion := false, pc := maskAddr (s.mem.readWord 1), mem := s.pcSaved } := by
  rw [State.interruptCheck_taken hion hreq, State.interruptSequence_ends (State.handlerChain_direct hw hcap h)]

end

/-- Settles O10: the handler's chain of one hop, of two, of any length that ends, and of none. -/
theorem interruptSavesPcAndEntersHandler : Obligations.InterruptSavesPcAndEntersHandler := by
  intro s hw hion hreq
  obtain ⟨hpc, hframe⟩ := State.changesWord_pcSaved hw
  obtain ⟨hchainPc, hchainFrame⟩ := State.handlerChain_memory hw
  rw [State.interruptCheck_taken hion hreq]
  refine ⟨fun hcap hlast => ?_, fun a w hcap0 hcap1 hmore ha ha0 hlast hword => ?_, fun e m' hends => ?_,
    fun m' hloops => ?_, fun hcap hself => ?_⟩
  · exact ⟨_, State.interruptSequence_ends (State.handlerChain_direct hw hcap hlast), rfl, hpc, hframe⟩
  · rw [← hopWord_eq] at hword
    have hchain := State.handlerChain_twoHops hw hcap0 hcap1 hmore ha ha0 hlast
    obtain ⟨hcell, hrest⟩ := changesWord_hopMemory (State.wf_pcSaved hw) a
    rw [State.readWord_pcSaved hw ha0] at hcell hrest
    rw [hchain] at hchainPc
    rw [hword]
    exact ⟨_, State.interruptSequence_ends hchain, rfl, hchainPc, hcell,
      fun k h0 h1 hlo hhi => (hrest k hlo hhi).trans (hframe k h0 h1)⟩
  · have hchain : s.handlerChain = .ends e m' := hends
    rw [hchain] at hchainPc hchainFrame
    exact ⟨State.interruptSequence_ends hchain, hchainPc, hchainFrame⟩
  · have hchain : s.handlerChain = .loops m' := hloops
    rw [hchain] at hchainPc hchainFrame
    refine ⟨State.interruptSequence_stops hchain, fun hcap => ?_, hchainPc, hchainFrame⟩
    rw [State.interruptSequence_loops hchain]
    exact State.indirectLoop_of_infinite (s := { s with ion := false, mem := m' }) hcap
  · exact ⟨_, State.interruptSequence_stops (State.handlerChain_self hw hself) hcap, rfl, hpc, hframe⟩

/-! ## The enable delay (R251, R322) -/

/-- The state an instruction executes in: ION-pending promoted and PC moved on (R250 steps 1 and 2). -/
theorem State.begun_eq (s : State) :
    s.begun = { s with ion := s.ion || s.ionp, ionp := false, pc := s.pc + 1 } := rfl

/-- INTEN with ION off raises ION-pending, so no interrupt is taken at the end of its step (R207). -/
theorem step_inten {s : State} {ac : Ac} (hrun : s.run = .running) (hagenda : s.agenda = []) (hion : s.ion = false)
    (hionp : s.ionp = false) (hfetched : s.fetched = .nioCpu ac .start) :
    step s = .next { s with ionp := true, pc := s.pc + 1 } := by
  have hexec : exec (.nioCpu ac .start) s.begun = .next { s with ionp := true, pc := s.pc + 1 } := by
    rw [exec_nioCpu, State.cpuControl_start, State.begun_eq]
    simp [hion, hionp]
  rw [step_of_exec hrun hagenda hfetched hexec hrun]
  exact noInterruptUnlessEnabledAndHonoured _ (.inl hion)

/-- A step that finds ION-pending set has ION on at its check; SKPDN CPU changes nothing before it (R251, R209). -/
theorem step_skpdnCpu_of_pending {s : State} {ac : Ac} (hrun : s.run = .running) (hagenda : s.agenda = [])
    (hionp : s.ionp = true) (hfetched : s.fetched = .skpdnCpu ac) :
    step s = State.interruptCheck { s with ion := true, ionp := false, pc := s.pc + 1 } := by
  have hexec : exec (.skpdnCpu ac) s.begun = .next { s with ion := true, ionp := false, pc := s.pc + 1 } := by
    rw [exec_skpdnCpu, State.begun_eq, hionp, Bool.or_true]
  exact step_of_exec hrun hagenda hfetched hexec hrun

/-- Settles O9: INTEN raises ION-pending, the next step promotes it, and its check enters the handler M[1] names. -/
theorem interruptTakenOneInstructionLate : Obligations.InterruptTakenOneInstructionLate := by
  intro s ac ac' hrun hagenda hion hionp hw hcap hreq hlast hinten hskpdn
  have hpc : s.pc + 1 + 1 = s.pc + 2 := BitVec.add_assoc s.pc 1 1
  have hfirst := step_inten hrun hagenda hion hionp hinten
  have hsecond := step_skpdnCpu_of_pending (s := { s with ionp := true, pc := s.pc + 1 }) hrun hagenda rfl hskpdn
  have htaken := State.interruptCheck_direct (s := { s with ion := true, ionp := false, pc := s.pc + 1 + 1 }) hw rfl
    hreq hcap hlast
  have hsaved : ChangesWord s.mem 0 (zext (s.pc + 2)) (s.mem.writeWord 0 (zext (s.pc + 1 + 1))) := by
    rw [hpc]
    exact changesWord_writeWord hw 0 _
  exact ⟨_, _, hfirst, rfl, hsecond.trans htaken, by simp only [hion, hionp], hsaved⟩

/-! ## The return (R264) -/

/-- A word made of an address has bit 15 clear. -/
theorem getLsbD_zext_last (a : Addr) : (zext a).getLsbD 15 = false := by
  simp [zext]

/-- Settles O12: cell 0 is not auto-indexed, and its word ends the chain. -/
theorem jumpThroughCellZeroReturns : Obligations.JumpThroughCellZeroReturns := by
  intro s a hcap h0
  obtain ⟨n, hn⟩ := hopLimit_succ hcap
  have hlast : (s.mem.readWord 0).getLsbD 15 = false := by rw [h0, getLsbD_zext_last]
  have hresolve : s.resolve ⟨true, .pageZero, 0⟩ = .ends a s.mem :=
    calc s.resolve ⟨true, .pageZero, 0⟩
        = chase (n + 1) s.mem 0 := by rw [s.resolve_indirect rfl, hn]; rfl
      _ = .ends (maskAddr (s.mem.readWord 0)) s.mem := chase_of_last_plain (by decide) hlast n
      _ = .ends a s.mem := by rw [h0, maskAddr_zext]
  exact (exec_jmp _ s).trans (State.atAddress_ends hresolve _)

end Sys2Proof.Machine
end

section
/-! Which steps have a next state (R253, R284): with a finite HOP_CAP all but those that the spec refuses. -/

namespace Sys2Proof.Machine

/-- The outcome is a next state. -/
def Completes (r : Result) : Prop := ∃ t, r = .next t

theorem completes_next (t : State) : Completes (.next t) := ⟨t, rfl⟩

theorem not_completes_fault (e : Fault) : ¬ Completes (.fault e) := by simp [Completes]

theorem not_completes_refused (e : Refusal) : ¬ Completes (.refused e) := by simp [Completes]

/-! ## The instruction step -/

theorem State.Inv.prioritiesDistinct {s : State} (h : s.Inv) : prioritiesDistinct s.devices = true := by
  have htable := h.table
  simp only [deviceTableOk, Bool.and_eq_true] at htable
  exact htable.2

/-- DIV has a next state whether it overflows or not. -/
theorem completes_div (s : State) : Completes (exec .div s) := by
  rcases Nat.lt_or_ge s.acs.ac0.toNat s.acs.ac2.toNat with hlt | hle
  · exact ⟨_, exec_div_of_lt hlt⟩
  · exact ⟨_, exec_div_of_le hle⟩

/-- Every instruction that the spec gives a meaning completes: a chain that runs out of hops still ends in the
IndirectLoop stop, and the invariant excludes the collision that MSKO refuses. -/
theorem completes_exec {s : State} (h : s.Inv) (hcap : s.cfg.hopCap ≠ none) {i : Instr}
    (hi : ∀ ac pulse, i ≠ .docMdv ac pulse) : Completes (exec i s) := by
  cases i with
  | jmp m | jsr m | isz m | dsz m | lda _ m | sta _ m =>
    simp only [Completes, exec_jmp, exec_jsr, exec_isz, exec_dsz, exec_lda, exec_sta]
    exact State.atAddress_next hcap m _
  | div => exact completes_div s
  | docMdv ac pulse => exact absurd rfl (hi ac pulse)
  | msko ac f => exact ⟨_, if_pos h.prioritiesDistinct⟩
  | com _ | neg _ | mov _ | inc _ | adc _ | sub _ | add _ | and _ => exact completes_next _
  | mul | skpMdv _ _ | otherMdv _ _ _ => exact completes_next _
  | nioCpu _ _ | reads _ _ | doaCpu _ _ | inta _ _ | iorst _ _ | halt _ _ => exact completes_next _
  | skpbnCpu _ | skpbzCpu _ | skpdnCpu _ | skpdzCpu _ => exact completes_next _
  | nio _ _ _ | dia _ _ _ | doa _ _ _ | dib _ _ _ | dob _ _ _ | dic _ _ _ | doc _ _ _ | skp _ _ _ =>
    exact completes_next _

theorem completes_interruptCheck {s : State} (hcap : s.cfg.hopCap ≠ none) : Completes s.interruptCheck := by
  rcases s.interruptCheck_cases with ⟨h, -⟩ | ⟨h, -, -⟩
  · rw [h]
    exact completes_next s
  · rw [h, State.interruptSequence_eq]
    exact State.afterChain_next (s := State.write { s with ion := false } 0 (zext s.pc)) hcap s.handlerChain _

theorem completes_finish {t : State} (hcap : t.cfg.hopCap ≠ none) (mid : List Completion) :
    Completes (t.finish mid) := by
  rcases t.finish_cases mid with ⟨-, h⟩ | ⟨-, h⟩
  · rw [h]
    refine completes_interruptCheck ?_
    rwa [(sameInstalled_ticks t mid).1]
  · rw [h]
    exact completes_next t

/-- The word at PC is not one of those that R234 refuses. -/
def State.FetchHasMeaning (s : State) : Prop := ∀ ac pulse, s.fetched ≠ .docMdv ac pulse

/-- An instruction step completes exactly when the spec gives its instruction a meaning. -/
theorem completes_instrStep {s : State} (h : s.Inv) (hcap : s.cfg.hopCap ≠ none) (mid : List Completion) :
    Completes (s.instrStep mid) ↔ s.FetchHasMeaning := by
  constructor
  · intro hstep ac pulse hfetched
    rw [State.instrStep_of_fetched hfetched, exec_docMdv] at hstep
    exact not_completes_refused _ hstep
  · intro hmeaning
    obtain ⟨t, hexec⟩ := completes_exec h.begun hcap hmeaning
    rw [State.instrStep, hexec]
    refine completes_finish ?_ mid
    rwa [(keepsInstalled_exec _ _ t hexec).1]

/-! ## The console -/

/-- InstStep completes when its instruction step does. -/
theorem completes_conInstStep {s : State} (h : s.Inv) (hcap : s.cfg.hopCap ≠ none) (mid : List Completion) :
    Completes (s.conInstStep mid) ↔ s.FetchHasMeaning := by
  refine Iff.trans ?_ (completes_instrStep h.beginRun hcap mid)
  unfold State.conInstStep
  cases s.beginRun.instrStep mid with
  | next t => exact iff_of_true (completes_next _) (completes_next t)
  | fault e => exact iff_of_false (not_completes_fault e) (not_completes_fault e)
  | refused e => exact iff_of_false (not_completes_refused e) (not_completes_refused e)

/-- ProgramLoad completes when the platform gives a blob (R317). -/
theorem completes_conProgramLoad (s : State) : Completes s.conProgramLoad ↔ s.cfg.bootBlob ≠ none := by
  unfold State.conProgramLoad
  cases s.cfg.bootBlob with
  | none => exact iff_of_false (not_completes_refused _) fun h => h rfl
  | some blob => exact iff_of_true (completes_next _) (Option.some_ne_none blob)

/-- A request served only while stopped can fail to complete only then (R319). -/
theorem completes_whenStopped (s : State) (r : Result) :
    Completes (s.whenStopped r) ↔ (s.run = .stopped → Completes r) := by
  rcases s.whenStopped_cases r with ⟨hrun, h⟩ | ⟨hrun, h⟩
  · rw [h]
    exact ⟨fun hr _ => hr, fun hr => hr hrun⟩
  · rw [h]
    exact iff_of_true (completes_next _) (by simp [hrun])

/-- What the request asks of a stopped machine: of InstStep an instruction with a meaning, of ProgramLoad a blob. -/
def State.CanServe (s : State) (op : ConsoleOp) : Prop :=
  match op with
  | .instStep _ => s.FetchHasMeaning
  | .programLoad => s.cfg.bootBlob ≠ none
  | _ => True

theorem completes_console {s : State} (h : s.Inv) (hcap : s.cfg.hopCap ≠ none) (op : ConsoleOp) :
    Completes (s.console op) ↔ (s.run = .stopped → s.CanServe op) := by
  cases op with
  | instStep mid =>
    exact (completes_whenStopped s _).trans (imp_congr_right fun _ => completes_conInstStep h hcap mid)
  | programLoad => exact (completes_whenStopped s _).trans (imp_congr_right fun _ => completes_conProgramLoad s)
  | start _ | resume | deposit _ _ | depositNext _ | examine _ | examineNext | loadMemory _ _ | attach _ =>
    exact (completes_whenStopped s _).trans (imp_congr_right fun _ => iff_of_true (completes_next _) trivial)
  | stop | reset | switches _ | status | waitForHalt => exact iff_of_true (completes_next _) fun _ => trivial

/-! ## The step -/

theorem completes_coreTurn {s : State} (h : s.Inv) (hcap : s.cfg.hopCap ≠ none) (mid : List Completion) :
    Completes (s.coreTurn mid) ↔ (s.run = .running → s.FetchHasMeaning) := by
  cases hrun : s.run with
  | running =>
    rw [State.coreTurn_running hrun, completes_instrStep h hcap]
    exact ⟨fun hm _ => hm, fun hm => hm rfl⟩
  | stopped =>
    rw [State.coreTurn_stopped hrun]
    exact iff_of_true (completes_next s) nofun

/-- What a turn asks: of a running core's an instruction with a meaning, of the console's that a stopped machine can
serve the request. -/
def State.CanMake (s : State) (turn : Turn) : Prop :=
  match turn with
  | .core _ => s.run = .running → s.FetchHasMeaning
  | .device _ => True
  | .console op => s.run = .stopped → s.CanServe op

theorem completes_takeTurn {s : State} (h : s.Inv) (hcap : s.cfg.hopCap ≠ none) (turn : Turn) :
    Completes (s.takeTurn turn) ↔ s.CanMake turn := by
  cases turn with
  | core mid => exact completes_coreTurn h hcap mid
  | device c => exact iff_of_true (completes_next _) trivial
  | console op => exact completes_console h hcap op

/-- The turn that the step to come makes: the core's where the agenda names none. -/
def State.nextTurn (s : State) : Turn := s.agenda.headD (.core [])

theorem step_eq_takeTurn (s : State) : step s = State.takeTurn { s with agenda := s.agenda.tail } s.nextTurn := by
  unfold step State.nextTurn
  cases hagenda : s.agenda with
  | nil =>
    have hs : s = { s with agenda := [] } := by rw [← hagenda]
    exact congrArg (fun t => t.coreTurn []) hs
  | cons turn rest => rfl

/-- What the turn to come asks, by whether its step executes an instruction or serves a ProgramLoad. -/
theorem State.canMake_nextTurn (s : State) :
    s.CanMake s.nextTurn ↔
      (s.executesNext = true → s.FetchHasMeaning) ∧ (s.loadsNext = true → s.cfg.bootBlob ≠ none) := by
  unfold State.nextTurn State.executesNext State.loadsNext
  cases hagenda : s.agenda with
  | nil => cases hrun : s.run <;> simp [State.CanMake, hrun]
  | cons turn rest =>
    cases turn with
    | core mid => cases hrun : s.run <;> simp [State.CanMake, hrun]
    | device c => simp [State.CanMake]
    | console op =>
      cases hrun : s.run with
      | running => simp [State.CanMake, hrun]
      | stopped => cases op <;> simp [State.CanMake, State.CanServe, hrun]

/-- Settles O16: the turn is made with itself off the agenda, which no condition sees. -/
theorem everyStepCompletes : Obligations.EveryStepCompletes := by
  intro s h hcap
  have hrest : ({ s with agenda := s.agenda.tail } : State).Inv := h.of_invPart h.memory rfl
  have hturn := completes_takeTurn hrest hcap s.nextTurn
  rw [← step_eq_takeTurn] at hturn
  exact hturn.trans s.canMake_nextTurn

end Sys2Proof.Machine
end

section
/-! INTEN followed by INTDS (R207, R208, R251): ION comes on at the top of INTDS's step and is off again before its
check. -/

namespace Sys2Proof.Machine

/-- INTDS turns ION off whatever the step's promotion made of it, so its step takes no interrupt (R208, R250). -/
theorem step_intds {s : State} {ac : Ac} (hrun : s.run = .running) (hagenda : s.agenda = [])
    (hfetched : s.fetched = .nioCpu ac .clear) :
    step s = .next { s with ion := false, ionp := false, pc := s.pc + 1 } := by
  have hexec : exec (.nioCpu ac .clear) s.begun = .next { s with ion := false, ionp := false, pc := s.pc + 1 } := by
    rw [exec_nioCpu, State.cpuControl_clear, State.begun_eq]
  rw [step_of_exec hrun hagenda hfetched hexec hrun]
  exact noInterruptUnlessEnabledAndHonoured _ (.inl rfl)

/-- Settles O8, from the step of INTEN and the step of INTDS. -/
theorem enableThenDisableNeverInterrupts : Obligations.EnableThenDisableNeverInterrupts := by
  intro s ac ac' hrun hagenda hion hionp hinten hintds
  have hpc : s.pc + 1 + 1 = s.pc + 2 := BitVec.add_assoc s.pc 1 1
  have hfirst := step_inten hrun hagenda hion hionp hinten
  have hsecond := step_intds (s := { s with ionp := true, pc := s.pc + 1 }) hrun hagenda hintds
  exact ⟨_, hfirst, rfl, by rw [hsecond, hpc, hion, hionp]⟩

end Sys2Proof.Machine
end

section
/-! The console's turn as a step (R283, R319): Reset in both run states (R303), and Deposit and Examine (R310, R312) as
requests that only a stopped machine serves. -/

namespace Sys2Proof.Machine

theorem step_of_console {s : State} {op : ConsoleOp} {rest : List Turn} (hagenda : s.agenda = .console op :: rest) :
    step s = State.console { s with agenda := rest } op := by
  simp only [step, hagenda, State.takeTurn]

/-! ## Reset -/

/-- The free value that Reset draws is for C alone (R303, D18). -/
theorem State.conReset_eq (s : State) :
    s.conReset = { s.resetIo with
      run := .stopped, latch := .none, carry := s.drawnBit, reply := .pc s.pc, draws := s.countDraw.draws } := rfl

theorem State.dev_conReset (s : State) (d : DevCode) :
    s.conReset.dev d = (s.dev d).map fun c => { c with st := .idle } :=
  s.dev_resetIo d

/-- Settles O59: Reset does not ask for the run state, and the controllers are those that RST leaves (R276). -/
theorem consoleResetLeaves : Obligations.ConsoleResetLeaves := by
  intro s rest hagenda
  refine ⟨State.conReset { s with agenda := rest }, step_of_console hagenda, ?_, fun d => ?_⟩
  · rw [State.conReset_eq]
    rfl
  · exact State.dev_conReset { s with agenda := rest } d

/-! ## Requests served only while stopped -/

theorem State.whenStopped_of_stopped {s : State} (h : s.run = .stopped) (r : Result) : s.whenStopped r = r := by
  rcases s.whenStopped_cases r with ⟨-, hserved⟩ | ⟨hrunning, -⟩
  · exact hserved
  · simp [h] at hrunning

theorem State.whenStopped_of_running {s : State} (h : s.run = .running) (r : Result) :
    s.whenStopped r = .next (s.answer .running) := by
  rcases s.whenStopped_cases r with ⟨hstopped, -⟩ | ⟨-, haway⟩
  · simp [h] at hstopped
  · exact haway

section
variable {s : State} {rest : List Turn}

section
variable {op : ConsoleOp} {serve : State → Result} (hop : ∀ t : State, t.console op = t.whenStopped (serve t))
include hop

theorem step_of_served (hrun : s.run = .stopped) (hagenda : s.agenda = .console op :: rest) :
    step s = serve { s with agenda := rest } := by
  rw [step_of_console hagenda, hop]
  exact State.whenStopped_of_stopped (s := { s with agenda := rest }) hrun _

/-- While running, the request changes nothing but the reply (R319). -/
theorem step_of_turnedAway (hrun : s.run = .running) (hagenda : s.agenda = .console op :: rest) :
    step s = .next { s with reply := .running, agenda := rest } := by
  rw [step_of_console hagenda, hop]
  exact State.whenStopped_of_running (s := { s with agenda := rest }) hrun _

end

/-- A stopped machine stores the datum, and PC is left at its address (R310). -/
theorem step_deposit_of_stopped (a d : Word) (hrun : s.run = .stopped)
    (hagenda : s.agenda = .console (.deposit a d) :: rest) :
    step s = .next { s with
      mem := s.mem.writeWord (maskAddr a) d, pc := maskAddr a, reply := .ack, agenda := rest } :=
  step_of_served (fun _ => rfl) hrun hagenda

/-- A stopped machine replies the word, and PC is left at its address (R312). -/
theorem step_examine_of_stopped (a : Word) (hrun : s.run = .stopped)
    (hagenda : s.agenda = .console (.examine a) :: rest) :
    step s = .next { s with
      pc := maskAddr a, reply := .word (s.mem.readWord (maskAddr a)), agenda := rest } :=
  step_of_served (fun _ => rfl) hrun hagenda

end

/-- Settles O60: while stopped Examine reads the word that Deposit wrote; while running each request is turned away. -/
theorem depositThenExamine : Obligations.DepositThenExamine := by
  intro s a d rest hagenda
  refine ⟨fun hrun hw => ?_, fun hrun => ?_⟩
  · have hread : (s.mem.writeWord (maskAddr a) d).readWord (maskAddr a) = d :=
      Memory.readWord_writeWord_same hw (maskAddr a) d
    have hdeposit := step_deposit_of_stopped a d hrun hagenda
    have hexamine := step_examine_of_stopped (rest := rest) a
      (s := { s with
        mem := s.mem.writeWord (maskAddr a) d, pc := maskAddr a, reply := .ack
        agenda := .console (.examine a) :: rest }) hrun rfl
    rw [hread] at hexamine
    exact ⟨_, _, hdeposit, hexamine, rfl, rfl, fun a' ha => Memory.readWord_writeWord_ne hw ha d, hread⟩
  · have hdeposit := step_of_turnedAway (fun _ => rfl) hrun hagenda
    have hexamine := step_of_turnedAway (rest := rest) (op := .examine a) (fun _ => rfl)
      (s := { s with reply := .running, agenda := .console (.examine a) :: rest }) hrun rfl
    exact ⟨_, hdeposit, hexamine⟩

end Sys2Proof.Machine
end
